-- ==== Sys2Proof/Word.lean ====
section
/-! DEFINITION. The plain types of the machine's values (00_scope.md rules R3 and section 5). -/

namespace Sys2Proof

/-- A byte of memory, a V register, a timer, an immediate `kk`. -/
abbrev Byte := BitVec 8

/-- I, PC, a return address, an instruction word. -/
abbrev Word := BitVec 16

/-- A register number (0 to F) or a key number: the value of a 4-bit field that names one of sixteen things. -/
abbrev RegIdx := Fin 16

/-- The 12-bit immediate `nnn` (30_encoding.md rule R61). -/
abbrev Imm12 := BitVec 12

/-- The 64 by 32 grid of one-bit pixels, row by row: bit `cx` of row `cy` is pixel (cx, cy), which is
`VID[cy*64 + cx]` (10_state.md rules R17, R18; log 5). -/
abbrev Screen := Vector (BitVec 64) 32

/-- The sixteen one-bit keys, element `k` of `KEY` being bit `k` (10_state.md rules R16, R28). -/
abbrev KeySet := BitVec 16

end Sys2Proof
end

