-- ==== Sys2Proof/Syntax.lean ====
section
/-! DEFINITION. The instructions: one constructor per row of spec/opcode_table.json, in the table's order. The
spec's own name of an operation is its pattern (30_encoding.md rule R75); it stands in each docstring. -/

namespace Sys2Proof

/-- An operation with its operands (30_encoding.md rules R61, R62, R66). -/
inductive Instr where
  /-- 00E0 CLS: clear the display (R140). -/
  | cls
  /-- 00EE RET: return (R121). -/
  | ret
  /-- 0nnn SYS nnn: legacy machine-code call, a no-op (R120). -/
  | sys (nnn : Imm12)
  /-- 1nnn JP nnn: jump (R122). -/
  | jp (nnn : Imm12)
  /-- 2nnn CALL nnn: call (R123). -/
  | call (nnn : Imm12)
  /-- 3xkk SE Vx, kk: skip if equal (R124). -/
  | seImm (x : RegIdx) (kk : Byte)
  /-- 4xkk SNE Vx, kk: skip if not equal (R125). -/
  | sneImm (x : RegIdx) (kk : Byte)
  /-- 5xy0 SE Vx, Vy: skip if registers equal (R126); the word's low nibble is not examined (R71). -/
  | seReg (x y : RegIdx)
  /-- 6xkk LD Vx, kk (R100). -/
  | ldImm (x : RegIdx) (kk : Byte)
  /-- 7xkk ADD Vx, kk (R101). -/
  | addImm (x : RegIdx) (kk : Byte)
  /-- 8xy0 LD Vx, Vy (R102). -/
  | ldReg (x y : RegIdx)
  /-- 8xy1 OR Vx, Vy (R103). -/
  | orReg (x y : RegIdx)
  /-- 8xy2 AND Vx, Vy (R104). -/
  | andReg (x y : RegIdx)
  /-- 8xy3 XOR Vx, Vy (R105). -/
  | xorReg (x y : RegIdx)
  /-- 8xy4 ADD Vx, Vy (R106). -/
  | addReg (x y : RegIdx)
  /-- 8xy5 SUB Vx, Vy (R107). -/
  | subReg (x y : RegIdx)
  /-- 8xy6 SHR Vx (R108); y is encoded, Vy is not read. -/
  | shr (x y : RegIdx)
  /-- 8xy7 SUBN Vx, Vy (R109). -/
  | subn (x y : RegIdx)
  /-- 8xyE SHL Vx (R110); y is encoded, Vy is not read. -/
  | shl (x y : RegIdx)
  /-- 9xy0 SNE Vx, Vy: skip if registers differ (R127); the word's low nibble is not examined (R71). -/
  | sneReg (x y : RegIdx)
  /-- Annn LD I, nnn (R150). -/
  | ldI (nnn : Imm12)
  /-- Bnnn JP V0, nnn (R128). -/
  | jpV0 (nnn : Imm12)
  /-- Cxkk RND Vx, kk (R111). -/
  | rnd (x : RegIdx) (kk : Byte)
  /-- Dxyn DRW Vx, Vy, n (R141). -/
  | drw (x y : RegIdx) (n : BitVec 4)
  /-- Ex9E SKP Vx (R173). -/
  | skp (x : RegIdx)
  /-- ExA1 SKNP Vx (R174). -/
  | sknp (x : RegIdx)
  /-- Fx07 LD Vx, DT (R170). -/
  | ldVxDt (x : RegIdx)
  /-- Fx0A LD Vx, K (R175). -/
  | ldVxK (x : RegIdx)
  /-- Fx15 LD DT, Vx (R171). -/
  | ldDtVx (x : RegIdx)
  /-- Fx18 LD ST, Vx (R172). -/
  | ldStVx (x : RegIdx)
  /-- Fx1E ADD I, Vx (R151). -/
  | addI (x : RegIdx)
  /-- Fx29 LD F, Vx (R152). -/
  | ldF (x : RegIdx)
  /-- Fx33 LD B, Vx (R153). -/
  | ldB (x : RegIdx)
  /-- Fx55 LD [I], Vx (R154). -/
  | storeRegs (x : RegIdx)
  /-- Fx65 LD Vx, [I] (R155). -/
  | loadRegs (x : RegIdx)
  /-- A word that matches no operation: a no-op (R72). It keeps the word. -/
  | unmatched (w : Word)
  deriving DecidableEq, Repr

end Sys2Proof
end

