-- ==== Sys2Proof/WellFormed.lean ====
section
/-! DEFINITION. Which terms of `Instr` are instructions of the machine. The operand types already bound every
field; what is left is which words the two no-op rows may name (30_encoding.md rules R67, R73). -/

namespace Sys2Proof

/-- The unmatched words, exactly as the table of 30_encoding.md rule R73 lists them. -/
def isUnmatchedWord (w : Word) : Bool :=
  let op := w.extractLsb' 12 4
  let n := w.extractLsb' 0 4
  let kk := w.extractLsb' 0 8
  (op == 0x8 && [0x8, 0x9, 0xA, 0xB, 0xC, 0xD, 0xF].contains n) ||
  (op == 0xE && ! [0x9E, 0xA1].contains kk) ||
  (op == 0xF && ! [0x07, 0x0A, 0x15, 0x18, 0x1E, 0x29, 0x33, 0x55, 0x65].contains kk)

/-- Well-formedness: a 0nnn names neither 00E0 nor 00EE (R67, R120), and an unmatched word is one (R73). -/
def Instr.wf : Instr → Bool
  | .sys nnn => nnn != 0x0E0 && nnn != 0x0EE
  | .unmatched w => isUnmatchedWord w
  | .cls | .ret | .jp _ | .call _ | .seImm _ _ | .sneImm _ _ | .seReg _ _ | .ldImm _ _ | .addImm _ _
  | .ldReg _ _ | .orReg _ _ | .andReg _ _ | .xorReg _ _ | .addReg _ _ | .subReg _ _ | .shr _ _ | .subn _ _
  | .shl _ _ | .sneReg _ _ | .ldI _ | .jpV0 _ | .rnd _ _ | .drw _ _ _ | .skp _ | .sknp _ | .ldVxDt _
  | .ldVxK _ | .ldDtVx _ | .ldStVx _ | .addI _ | .ldF _ | .ldB _ | .storeRegs _ | .loadRegs _ => true

end Sys2Proof
end

