-- ==== Sys2Proof/Decode.lean ====
section
/-! DEFINITION. The decoder (30_encoding.md rules R60, R61, R66 to R73), the encoder written from the formats of R62
and the operation rules, and the opcode table transcribed row by row. -/

namespace Sys2Proof

/-! ### Fields of the instruction word (R61) -/

/-- `op = opc[15:12]`, the primary selector. -/
def fieldOp (w : Word) : BitVec 4 := w.extractLsb' 12 4

/-- `x = opc[11:8]`, a register number. -/
def fieldX (w : Word) : RegIdx := (w.extractLsb' 8 4).toFin

/-- `y = opc[7:4]`, a register number. -/
def fieldY (w : Word) : RegIdx := (w.extractLsb' 4 4).toFin

/-- `n = opc[3:0]`. -/
def fieldN (w : Word) : BitVec 4 := w.extractLsb' 0 4

/-- `kk = opc[7:0]`. -/
def fieldKk (w : Word) : Byte := w.extractLsb' 0 8

/-- `nnn = opc[11:0]`. -/
def fieldNnn (w : Word) : Imm12 := w.extractLsb' 0 12

/-! ### The layered dispatch (R66) -/

/-- Primary 0x0: the whole word selects (R67). -/
def decode0 (w : Word) : Instr :=
  if w = 0x00E0 then .cls
  else if w = 0x00EE then .ret
  else .sys (fieldNnn w)

/-- Primary 0x8: the low nibble selects (R68). -/
def decode8 (w : Word) : Instr :=
  if fieldN w = 0x0 then .ldReg (fieldX w) (fieldY w)
  else if fieldN w = 0x1 then .orReg (fieldX w) (fieldY w)
  else if fieldN w = 0x2 then .andReg (fieldX w) (fieldY w)
  else if fieldN w = 0x3 then .xorReg (fieldX w) (fieldY w)
  else if fieldN w = 0x4 then .addReg (fieldX w) (fieldY w)
  else if fieldN w = 0x5 then .subReg (fieldX w) (fieldY w)
  else if fieldN w = 0x6 then .shr (fieldX w) (fieldY w)
  else if fieldN w = 0x7 then .subn (fieldX w) (fieldY w)
  else if fieldN w = 0xE then .shl (fieldX w) (fieldY w)
  else .unmatched w

/-- Primary 0xE: the low byte selects (R69). -/
def decodeE (w : Word) : Instr :=
  if fieldKk w = 0x9E then .skp (fieldX w)
  else if fieldKk w = 0xA1 then .sknp (fieldX w)
  else .unmatched w

/-- Primary 0xF: the low byte selects one of nine (R70). -/
def decodeF (w : Word) : Instr :=
  if fieldKk w = 0x07 then .ldVxDt (fieldX w)
  else if fieldKk w = 0x0A then .ldVxK (fieldX w)
  else if fieldKk w = 0x15 then .ldDtVx (fieldX w)
  else if fieldKk w = 0x18 then .ldStVx (fieldX w)
  else if fieldKk w = 0x1E then .addI (fieldX w)
  else if fieldKk w = 0x29 then .ldF (fieldX w)
  else if fieldKk w = 0x33 then .ldB (fieldX w)
  else if fieldKk w = 0x55 then .storeRegs (fieldX w)
  else if fieldKk w = 0x65 then .loadRegs (fieldX w)
  else .unmatched w

/-- `Decode(opc)`: the primary selector chooses, alone for 0x1 to 0x7, 0x9 and 0xA to 0xD (R71), with a secondary
selector for 0x0, 0x8, 0xE and 0xF. Total: an unmatched word is `Instr.unmatched` (R72). -/
def decodeWord (w : Word) : Instr :=
  if fieldOp w = 0x0 then decode0 w
  else if fieldOp w = 0x1 then .jp (fieldNnn w)
  else if fieldOp w = 0x2 then .call (fieldNnn w)
  else if fieldOp w = 0x3 then .seImm (fieldX w) (fieldKk w)
  else if fieldOp w = 0x4 then .sneImm (fieldX w) (fieldKk w)
  else if fieldOp w = 0x5 then .seReg (fieldX w) (fieldY w)
  else if fieldOp w = 0x6 then .ldImm (fieldX w) (fieldKk w)
  else if fieldOp w = 0x7 then .addImm (fieldX w) (fieldKk w)
  else if fieldOp w = 0x8 then decode8 w
  else if fieldOp w = 0x9 then .sneReg (fieldX w) (fieldY w)
  else if fieldOp w = 0xA then .ldI (fieldNnn w)
  else if fieldOp w = 0xB then .jpV0 (fieldNnn w)
  else if fieldOp w = 0xC then .rnd (fieldX w) (fieldKk w)
  else if fieldOp w = 0xD then .drw (fieldX w) (fieldY w) (fieldN w)
  else if fieldOp w = 0xE then decodeE w
  else decodeF w

/-! ### Bytes (R44, R60: high byte first) -/

/-- `{MEM[PC], MEM[PC+1]}`: the byte at the lower address is bits 15:8. -/
def wordOfBytes (hi lo : Byte) : Word := hi ++ lo

/-- Bits 15:8, the byte stored at the lower address. -/
def highByte (w : Word) : Byte := w.extractLsb' 8 8

/-- Bits 7:0, the byte stored at the higher address. -/
def lowByte (w : Word) : Byte := w.extractLsb' 0 8

/-- A word as it lies in memory. -/
def wordBytes (w : Word) : List Byte := [highByte w, lowByte w]

/-- Why a byte sequence is no instruction. -/
inductive DecodeReject where
  /-- Fewer than two bytes: every instruction is exactly two (R60). -/
  | truncated
  deriving DecidableEq, Repr

/-- Decode the first instruction of a byte sequence and give the rest back. -/
def decode : List Byte → Except DecodeReject (Instr × List Byte)
  | hi :: lo :: rest => .ok (decodeWord (wordOfBytes hi lo), rest)
  | [_] => .error .truncated
  | [] => .error .truncated

/-- The bytes of a table row's instruction as the hardware stores them: the row's `nbits` bits of `w`, zero above. -/
def tableBytes (nbits w : Nat) : List Byte := wordBytes (BitVec.ofNat 16 (w % 2 ^ nbits))

/-- What the decoder reads from an instruction whose bits are `w`, numbered as spec/opcode_table.json numbers them. -/
def decodeTableWord (nbits w : Nat) : Option Instr :=
  match decode (tableBytes nbits w) with
  | .ok (i, _) => some i
  | .error _ => none

/-! ### The encoder: the layouts of R62 with the `op` and selector of each operation's own rule -/

/-- A register number as a 4-bit field. -/
def regBits (r : RegIdx) : BitVec 4 := BitVec.ofFin r

/-- Format NNN. -/
def formNnn (op : BitVec 4) (nnn : Imm12) : Word := op ++ nnn

/-- Format XKK, and format XSEL with `kk` the selector. -/
def formXkk (op : BitVec 4) (x : RegIdx) (kk : Byte) : Word := (op ++ regBits x : Byte) ++ kk

/-- Formats XY (with `n` the selector) and XYN. -/
def formXyn (op : BitVec 4) (x y : RegIdx) (n : BitVec 4) : Word :=
  (op ++ regBits x : Byte) ++ (regBits y ++ n : Byte)

/-- The word of an instruction; for 5xy0 and 9xy0 the canonical one, low nibble 0 (R71). -/
def encode : Instr → Word
  | .cls => 0x00E0
  | .ret => 0x00EE
  | .sys nnn => formNnn 0x0 nnn
  | .jp nnn => formNnn 0x1 nnn
  | .call nnn => formNnn 0x2 nnn
  | .seImm x kk => formXkk 0x3 x kk
  | .sneImm x kk => formXkk 0x4 x kk
  | .seReg x y => formXyn 0x5 x y 0x0
  | .ldImm x kk => formXkk 0x6 x kk
  | .addImm x kk => formXkk 0x7 x kk
  | .ldReg x y => formXyn 0x8 x y 0x0
  | .orReg x y => formXyn 0x8 x y 0x1
  | .andReg x y => formXyn 0x8 x y 0x2
  | .xorReg x y => formXyn 0x8 x y 0x3
  | .addReg x y => formXyn 0x8 x y 0x4
  | .subReg x y => formXyn 0x8 x y 0x5
  | .shr x y => formXyn 0x8 x y 0x6
  | .subn x y => formXyn 0x8 x y 0x7
  | .shl x y => formXyn 0x8 x y 0xE
  | .sneReg x y => formXyn 0x9 x y 0x0
  | .ldI nnn => formNnn 0xA nnn
  | .jpV0 nnn => formNnn 0xB nnn
  | .rnd x kk => formXkk 0xC x kk
  | .drw x y n => formXyn 0xD x y n
  | .skp x => formXkk 0xE x 0x9E
  | .sknp x => formXkk 0xE x 0xA1
  | .ldVxDt x => formXkk 0xF x 0x07
  | .ldVxK x => formXkk 0xF x 0x0A
  | .ldDtVx x => formXkk 0xF x 0x15
  | .ldStVx x => formXkk 0xF x 0x18
  | .addI x => formXkk 0xF x 0x1E
  | .ldF x => formXkk 0xF x 0x29
  | .ldB x => formXkk 0xF x 0x33
  | .storeRegs x => formXkk 0xF x 0x55
  | .loadRegs x => formXkk 0xF x 0x65
  | .unmatched w => w

/-- The instruction as it lies in memory. -/
def encodeBytes (i : Instr) : List Byte := wordBytes (encode i)

/-- The word a decoder reads the same instruction from, with the nibble that 5xyN and 9xyN ignore set to 0 (R71). -/
def canonicalWord (w : Word) : Word :=
  if fieldOp w = 0x5 ∨ fieldOp w = 0x9 then w &&& 0xFFF0 else w

/-! ### spec/opcode_table.json, row by row -/

/-- One row: the table's mnemonic, mask and match. -/
structure OpcodeRow where
  mnemonic : String
  mask : Word
  value : Word
  deriving DecidableEq, Repr

/-- The row an instruction belongs to. -/
def rowOf : Instr → OpcodeRow
  | .cls => ⟨"CLS", 0xFFFF, 0x00E0⟩
  | .ret => ⟨"RET", 0xFFFF, 0x00EE⟩
  | .sys _ => ⟨"SYS_nnn", 0xF000, 0x0000⟩
  | .jp _ => ⟨"JP_nnn", 0xF000, 0x1000⟩
  | .call _ => ⟨"CALL_nnn", 0xF000, 0x2000⟩
  | .seImm _ _ => ⟨"SE_Vx__kk", 0xF000, 0x3000⟩
  | .sneImm _ _ => ⟨"SNE_Vx__kk", 0xF000, 0x4000⟩
  | .seReg _ _ => ⟨"SE_Vx__Vy", 0xF000, 0x5000⟩
  | .ldImm _ _ => ⟨"LD_Vx__kk", 0xF000, 0x6000⟩
  | .addImm _ _ => ⟨"ADD_Vx__kk", 0xF000, 0x7000⟩
  | .ldReg _ _ => ⟨"LD_Vx__Vy", 0xF00F, 0x8000⟩
  | .orReg _ _ => ⟨"OR_Vx__Vy", 0xF00F, 0x8001⟩
  | .andReg _ _ => ⟨"AND_Vx__Vy", 0xF00F, 0x8002⟩
  | .xorReg _ _ => ⟨"XOR_Vx__Vy", 0xF00F, 0x8003⟩
  | .addReg _ _ => ⟨"ADD_Vx__Vy", 0xF00F, 0x8004⟩
  | .subReg _ _ => ⟨"SUB_Vx__Vy", 0xF00F, 0x8005⟩
  | .shr _ _ => ⟨"SHR_Vx", 0xF00F, 0x8006⟩
  | .subn _ _ => ⟨"SUBN_Vx__Vy", 0xF00F, 0x8007⟩
  | .shl _ _ => ⟨"SHL_Vx", 0xF00F, 0x800E⟩
  | .sneReg _ _ => ⟨"SNE_Vx__Vy", 0xF000, 0x9000⟩
  | .ldI _ => ⟨"LD_I__nnn", 0xF000, 0xA000⟩
  | .jpV0 _ => ⟨"JP_V0__nnn", 0xF000, 0xB000⟩
  | .rnd _ _ => ⟨"RND_Vx__kk", 0xF000, 0xC000⟩
  | .drw _ _ _ => ⟨"DRW_Vx__Vy__n", 0xF000, 0xD000⟩
  | .skp _ => ⟨"SKP_Vx", 0xF0FF, 0xE09E⟩
  | .sknp _ => ⟨"SKNP_Vx", 0xF0FF, 0xE0A1⟩
  | .ldVxDt _ => ⟨"LD_Vx__DT", 0xF0FF, 0xF007⟩
  | .ldVxK _ => ⟨"LD_Vx__K", 0xF0FF, 0xF00A⟩
  | .ldDtVx _ => ⟨"LD_DT__Vx", 0xF0FF, 0xF015⟩
  | .ldStVx _ => ⟨"LD_ST__Vx", 0xF0FF, 0xF018⟩
  | .addI _ => ⟨"ADD_I__Vx", 0xF0FF, 0xF01E⟩
  | .ldF _ => ⟨"LD_F__Vx", 0xF0FF, 0xF029⟩
  | .ldB _ => ⟨"LD_B__Vx", 0xF0FF, 0xF033⟩
  | .storeRegs _ => ⟨"LD__I___Vx", 0xF0FF, 0xF055⟩
  | .loadRegs _ => ⟨"LD_Vx___I", 0xF0FF, 0xF065⟩
  | .unmatched _ => ⟨"unmatched_word__no-op", 0x0000, 0x0000⟩

/-- The table, in its priority order (first match wins). -/
def opcodeTable : List OpcodeRow :=
  [rowOf .cls, rowOf .ret, rowOf (.sys 0), rowOf (.jp 0), rowOf (.call 0), rowOf (.seImm 0 0), rowOf (.sneImm 0 0),
   rowOf (.seReg 0 0), rowOf (.ldImm 0 0), rowOf (.addImm 0 0)] ++
  [rowOf (.ldReg 0 0), rowOf (.orReg 0 0), rowOf (.andReg 0 0), rowOf (.xorReg 0 0), rowOf (.addReg 0 0),
   rowOf (.subReg 0 0), rowOf (.shr 0 0), rowOf (.subn 0 0), rowOf (.shl 0 0), rowOf (.sneReg 0 0)] ++
  [rowOf (.ldI 0), rowOf (.jpV0 0), rowOf (.rnd 0 0), rowOf (.drw 0 0 0), rowOf (.skp 0), rowOf (.sknp 0),
   rowOf (.ldVxDt 0), rowOf (.ldVxK 0), rowOf (.ldDtVx 0), rowOf (.ldStVx 0), rowOf (.addI 0), rowOf (.ldF 0),
   rowOf (.ldB 0), rowOf (.storeRegs 0), rowOf (.loadRegs 0), rowOf (.unmatched 0)]

/-- The first row of the table that matches a word. -/
def tableLookup (w : Word) : Option OpcodeRow :=
  opcodeTable.find? (fun r => w &&& r.mask == r.value)

end Sys2Proof
end

