-- ==== Sys2Proof/Config.lean ====
section
/-! DEFINITION. The sizes the spec fixes (00_scope.md rule R3) and its two named parameters (rule R4): the font
bytes, fixed here to the spec's default table, and the random byte, a free value. -/

namespace Sys2Proof.Config

/-- `MEM_SIZE`: addresses 0x000 to 0xFFF (R3). -/
def memSize : Nat := 4096

/-- `FONT_BASE` (R3, R41). -/
def fontBase : Nat := 0x050

/-- `FONT_GLYPH_BYTES` times `FONT_GLYPHS` (R3). -/
def fontBytes : Nat := 80

/-- `PROG_BASE`: where `LoadROM` places the program, and PC after reset (R3, R23). -/
def progBase : Nat := 0x200

/-- `MAX_ROM` = 4096 - 0x200 (R3). -/
def maxRom : Nat := 3584

/-- `DISPLAY_W` (R3). -/
def displayW : Nat := 64

/-- `DISPLAY_H` (R3). -/
def displayH : Nat := 32

/-- `FONT[0..79]`, the default table of 20_memory.md rule R41, glyphs 0 to F in order.
PRESUMED (the spec marks it 'from general knowledge, not in source', and calls it a parameter); unsafe: log 4. -/
def font : List Byte :=
  [0xF0, 0x90, 0x90, 0x90, 0xF0,  0x20, 0x60, 0x20, 0x20, 0x70,
   0xF0, 0x10, 0xF0, 0x80, 0xF0,  0xF0, 0x10, 0xF0, 0x10, 0xF0] ++
  [0x90, 0x90, 0xF0, 0x10, 0x10,  0xF0, 0x80, 0xF0, 0x10, 0xF0,
   0xF0, 0x80, 0xF0, 0x90, 0xF0,  0xF0, 0x10, 0x20, 0x40, 0x40] ++
  [0xF0, 0x90, 0xF0, 0x90, 0xF0,  0xF0, 0x90, 0xF0, 0x10, 0xF0,
   0xF0, 0x90, 0xF0, 0x90, 0x90,  0xE0, 0x90, 0xE0, 0x90, 0xE0] ++
  [0xF0, 0x80, 0x80, 0x80, 0xF0,  0xE0, 0x90, 0x90, 0x90, 0xE0,
   0xF0, 0x80, 0xF0, 0x80, 0xF0,  0xF0, 0x80, 0xF0, 0x80, 0x80]

/-- The random byte of the k-th execution of Cxkk: a FREE VALUE with no body, because the spec makes `rnd` "a free
input under no law" (10_state.md rule R32, 92_eei_decisions.md D7). Safe: whatever is proved holds for every
sequence of bytes; log 3. -/
opaque rnd : Nat → Byte

end Sys2Proof.Config
end

