-- ==== Sys2Proof/Machine/State.lean ====
section
/-! DEFINITION. The state of the core (10_state.md section 1), its reset value (rule R23), and the names of its
faults (60_exceptions.md rule R200). -/

namespace Sys2Proof.Machine

/-- Main memory: the addresses whose byte differs from its reset value, strictly rising, none above 0xFFF
(10_state.md rule R19; the form is log 6). -/
abbrev Memory := List Host.Cell

/-- All the state the spec gives the core (10_state.md rules R10 to R21; R22 says there is no other), and one field
of the model's own, `draws`. -/
structure State where
  /-- `V[0..15]` (R10); `V[15]` is VF (R11). -/
  v : Vector Byte 16
  /-- The index register `I` (R12). -/
  i : Word
  /-- The program counter `PC` (R13). -/
  pc : Word
  /-- `STACK[0..15]` (R14). -/
  stack : Vector Word 16
  /-- `SP`, the number of entries in use, 0 to 16 (R14). -/
  sp : Fin 17
  /-- The delay timer `DT` (R15). -/
  dt : Byte
  /-- The sound timer `ST` (R15). -/
  st : Byte
  /-- `KEY[0..15]` (R16). -/
  key : KeySet
  /-- `VID[0..2047]`, as 32 rows of 64 pixels (R17; log 5). -/
  vid : Screen
  /-- `MEM[0..4095]` (R19). -/
  mem : Memory
  /-- The fault latch `FLT`: 0 running, else the cause (R21). -/
  flt : BitVec 3
  /-- The model's own: how many random bytes Cxkk has consumed, so which free value the next one is
  (DESIGN CHOICE, log 3). -/
  draws : Nat
  deriving DecidableEq, Repr

/-- The five fault causes (60_exceptions.md rule R200). None of them is answered as `Outcome.fault`: each is TAKEN
by `takeFault`, a next state with the cause in `FLT` and nothing else changed (rule R201; log 1). Each is safe: the
core stops where the source leaves the behaviour undefined (92_eei_decisions.md D3). -/
inductive Fault where
  /-- Code 1: raised by the fetch of any cycle with PC > 0xFFE (R46). Safe. -/
  | fetchRange
  /-- Code 2: raised by Dxyn, Fx33, Fx55 and Fx65 when a byte they touch lies above 0xFFF (R43). Safe. -/
  | dataRange
  /-- Code 3: raised by 2nnn with all sixteen levels in use (R123). Safe. -/
  | stackOverflow
  /-- Code 4: raised by 00EE with an empty stack (R121). Safe. -/
  | stackUnderflow
  /-- Code 5: raised by Ex9E and ExA1 with Vx > 15 (R178). Safe. -/
  | keyRange
  deriving DecidableEq, Repr

/-- Why a step could have no meaning. -/
inductive Refusal where
  /-- Raised by an arm of `exec` for an instruction that has no meaning yet; no arm of this model is such an arm.
  Safe. -/
  | notModelled (mnemonic : String)
  deriving DecidableEq, Repr

/-- The state right after reset (10_state.md rule R23): everything zero but PC = 0x200; memory lists nothing, so it
holds the font and zeros. `draws` is the model's own (DESIGN CHOICE 0, log 3). -/
def State.reset : State where
  v := Vector.replicate 16 0
  i := 0
  pc := 0x0200
  stack := Vector.replicate 16 0
  sp := 0
  dt := 0
  st := 0
  key := 0
  vid := Vector.replicate 32 0
  mem := []
  flt := 0
  draws := 0

end Sys2Proof.Machine
end

