-- ==== Sys2Proof/Machine/Ops.lean ====
section
/-! DEFINITION. The named operations over memory, registers, stack, timers and the fault latch. Every meaning reads
and writes the state through them. -/

namespace Sys2Proof.Machine

/-! ### Memory (20_memory.md rules R40 to R49) -/

/-- What an address holds at reset, and so what an address that memory does not list reads as: the font at 0x050 to
0x09F, zero elsewhere (10_state.md rule R23, 20_memory.md rule R41). -/
def Memory.unlisted (a : Nat) : Byte :=
  if Config.fontBase ≤ a ∧ a < Config.fontBase + Config.fontBytes
  then Config.font.getD (a - Config.fontBase) 0 else 0

/-- `MemRead(a, 1)` for an address in range (R43). Every operation checks its range before it reads (R48), so what
this answers above 0xFFF is never used. -/
def Memory.read : Memory → Nat → Byte
  | [], a => Memory.unlisted a
  | (k, b) :: m, a => if k = a then b else Memory.read m a

/-- Put a byte into the sorted list: an entry equal to what an unlisted address reads as is left out. -/
def Memory.put : Memory → Nat → Byte → Memory
  | [], a, b => if b = Memory.unlisted a then [] else [(a, b)]
  | (k, c) :: m, a, b =>
    if a < k then (if b = Memory.unlisted a then (k, c) :: m else (a, b) :: (k, c) :: m)
    else if a = k then (if b = Memory.unlisted a then m else (a, b) :: m)
    else (k, c) :: Memory.put m a b

/-- `MemWrite(a, 1, b)` (R43): for an address above 0xFFF the access does not happen. -/
def Memory.write (m : Memory) (a : Nat) (b : Byte) : Memory :=
  if a < Config.memSize then Memory.put m a b else m

/-- The bytes `bs` stored at ascending addresses from `a` (R47). -/
def Memory.writeBytes : Memory → Nat → List Byte → Memory
  | m, _, [] => m
  | m, a, b :: bs => Memory.writeBytes (Memory.write m a b) (a + 1) bs

/-- Whether every address listed is at least `lo` and rising, in range, and none holds its unlisted value. -/
def Memory.wfFrom : Nat → Memory → Bool
  | _, [] => true
  | lo, (k, b) :: m => decide (lo ≤ k) && decide (k < Config.memSize) && b != Memory.unlisted k && Memory.wfFrom (k + 1) m

/-- The canonical form: addresses strictly rising, none above 0xFFF, no entry equal to what an unlisted address
reads as. -/
def Memory.wf (m : Memory) : Bool := Memory.wfFrom 0 m

/-- Whether the `n` bytes from `base` all exist: `base + n - 1 ≤ 0xFFF`, or `n = 0` (R43, R48, R141). -/
def inRange (base n : Nat) : Bool := decide (n = 0 ∨ base + n - 1 ≤ 0xFFF)

/-- Replace memory. -/
def State.setMem (s : State) (m : Memory) : State := { s with mem := m }

/-! ### Registers (10_state.md rules R10 to R15) -/

/-- `V[x]`. -/
def State.getV (s : State) (x : RegIdx) : Byte := s.v[x.val]

/-- `V[x] <- b`. -/
def State.setV (s : State) (x : RegIdx) (b : Byte) : State := { s with v := s.v.set x.val b }

/-- `V[0xF] <- 1 or 0`, the flag (R11). -/
def State.setFlag (s : State) (f : Bool) : State := s.setV 15 (if f then 1 else 0)

/-- Replace all of V. -/
def State.setAllV (s : State) (v : Vector Byte 16) : State := { s with v := v }

/-- `I <- a`. -/
def State.setI (s : State) (a : Word) : State := { s with i := a }

/-- `PC <- a`. -/
def State.setPc (s : State) (a : Word) : State := { s with pc := a }

/-- Step 2 of the cycle: `PC <- PC + 2` (30_encoding.md rule R65). -/
def State.advance (s : State) : State := s.setPc (s.pc + 2)

/-- The skip of 41_control_flow.md rule R130 on an advanced PC: 2 more when the condition holds. -/
def State.skipIf (s : State) (c : Bool) : State := if c then s.setPc (s.pc + 2) else s

/-- `DT <- b`. -/
def State.setDt (s : State) (b : Byte) : State := { s with dt := b }

/-- `ST <- b`. -/
def State.setSt (s : State) (b : Byte) : State := { s with st := b }

/-- Replace the display buffer. -/
def State.setVid (s : State) (p : Screen) : State := { s with vid := p }

/-- `KEY[i] <- k[i]` for all sixteen (R28); only the host does this. -/
def State.setKey (s : State) (k : KeySet) : State := { s with key := k }

/-- The model's count of consumed random bytes moves on by one (log 3). -/
def State.drawn (s : State) : State := { s with draws := s.draws + 1 }

/-! ### The call stack (10_state.md rule R14) -/

/-- Push: `STACK[SP] <- a; SP <- SP + 1`. None with all sixteen entries in use. -/
def State.push (s : State) (a : Word) : Option State :=
  if h : s.sp.val < 16 then
    some { s with stack := s.stack.set s.sp.val a, sp := ⟨s.sp.val + 1, by omega⟩ }
  else none

/-- Pop: `SP <- SP - 1`, and the value `STACK[SP]`, which stays where it is. None with an empty stack. -/
def State.pop (s : State) : Option (Word × State) :=
  if h : 0 < s.sp.val then
    some (s.stack[s.sp.val - 1], { s with sp := ⟨s.sp.val - 1, by omega⟩ })
  else none

/-! ### Keys (44_timers_keys.md rule R178) -/

/-- `KEY[k] == 1`. -/
def State.pressed (s : State) (k : RegIdx) : Bool := s.key.getLsbD k.val

/-- The key numbers in ascending order, as Fx0A scans them (R175). -/
def keyOrder : List RegIdx := [0, 1, 2, 3, 4, 5, 6, 7, 8, 9, 10, 11, 12, 13, 14, 15]

/-- The smallest pressed key, if any (R175). -/
def State.lowestKey (s : State) : Option RegIdx := keyOrder.find? s.pressed

/-! ### Fetch, tick, faults -/

/-- Step 1 of the cycle: the big-endian word at PC, or nothing when PC > 0xFFE (20_memory.md rules R44 to R46). -/
def State.fetch (s : State) : Option Word :=
  if s.pc.toNat ≤ 0xFFE then
    some (wordOfBytes (s.mem.read s.pc.toNat) (s.mem.read (s.pc.toNat + 1)))
  else none

/-- One timer: down by one, floor at 0 (44_timers_keys.md rule R176). -/
def tickTimer (t : Byte) : Byte := if t = 0 then 0 else t - 1

/-- Step 5 of the cycle: both timers tick (R176). -/
def State.tick (s : State) : State := { s with dt := tickTimer s.dt, st := tickTimer s.st }

/-- The cause code of a fault (60_exceptions.md rule R200). -/
def Fault.code : Fault → BitVec 3
  | .fetchRange => 1
  | .dataRange => 2
  | .stackOverflow => 3
  | .stackUnderflow => 4
  | .keyRange => 5

/-- FAULT ENTRY, the machine's only exception (60_exceptions.md rule R201): applied to the state the cycle began
with, it keeps every piece of it, PC and timers included, and sets `FLT <- cause`. There is no saved register, no
handler and no vector. There is no return from it either: no instruction clears `FLT`, and the only way out is the
host's Reset (rule R203; `hostReset` in Machine/HostPort.lean). -/
def State.takeFault (s : State) (c : Fault) : State := { s with flt := c.code }

/-- The end of a cycle: the tick, unless the operation faulted (30_encoding.md rule R64, 60_exceptions.md R201). -/
def State.endCycle (s : State) : State := if s.flt = 0 then s.tick else s

end Sys2Proof.Machine
end

