-- ==== Sys2Proof/Machine/Cycle.lean ====
section
/-! DEFINITION. The instruction cycle around step 4 (30_encoding.md rule R64). -/

namespace Sys2Proof.Machine

open Host (Outcome)

/-- `Cycle`, for a given step 4: step 0, a halted core does nothing (60_exceptions.md rule R202); step 1, fetch, or
FETCH_RANGE (20_memory.md rules R44, R46); steps 2 to 4, decode and `run`, which advances PC; step 5, the tick. -/
def runCycle (run : Instr → State → Outcome State Fault Refusal) (s : State) : Outcome State Fault Refusal :=
  if s.flt ≠ 0 then .next s
  else
    match s.fetch with
    | none => .next (s.takeFault .fetchRange)
    | some w =>
      match run (decodeWord w) s with
      | .next t => .next t.endCycle
      | .fault r => .fault r
      | .refused r => .refused r

end Sys2Proof.Machine
end

