-- ==== Sys2Proof/Machine/Flags.lean ====
section
/-! DEFINITION. The flag computations: what 8xy4, 8xy5, 8xy6, 8xy7 and 8xyE write to VF (40_arithmetic_register.md
rule R112), each from the operands as they were before the operation. The collision flag of Dxyn is computed with
the drawing, in Machine/Operands.lean. -/

namespace Sys2Proof.Machine

/-- Carry of 8xy4: the exact sum exceeds 255 (R106). -/
def carryFlag (vx vy : Byte) : Bool := decide (vx.toNat + vy.toNat > 255)

/-- The flag of 8xy5 and, with the operands exchanged, of 8xy7: strictly greater (R107, R109). -/
def greaterFlag (a b : Byte) : Bool := decide (a.toNat > b.toNat)

/-- The flag of 8xy6: bit 0 of the old Vx (R108). -/
def lowBitFlag (vx : Byte) : Bool := vx.getLsbD 0

/-- The flag of 8xyE: bit 7 of the old Vx (R110). -/
def highBitFlag (vx : Byte) : Bool := vx.getLsbD 7

/-- The write order of 30_encoding.md rule R77: the result to Vx first, the flag to VF last. -/
def State.setResultFlag (s : State) (x : RegIdx) (r : Byte) (f : Bool) : State := (s.setV x r).setFlag f

end Sys2Proof.Machine
end

