-- ==== Sys2Proof/Machine/Operands.lean ====
section
/-! DEFINITION. The operand forms beyond a plain register or immediate: addresses, the bytes a store writes, the
registers a block load reads, key numbers, and the sprite renderer. -/

namespace Sys2Proof.Machine

/-- `zext_16(nnn)` (30_encoding.md rule R63). -/
def zext16 (nnn : Imm12) : Word := nnn.setWidth 16

/-- The target of Bnnn: `V[0] + nnn`, at most 0x10FE (41_control_flow.md rule R128). -/
def jumpOffset (v0 : Byte) (nnn : Imm12) : Word := BitVec.ofNat 16 (v0.toNat + nnn.toNat)

/-- Fx1E: `(I + Vx) mod 65536` (43_memory_index.md rule R151). -/
def addIndex (i : Word) (vx : Byte) : Word := BitVec.ofNat 16 (i.toNat + vx.toNat)

/-- Fx29: `0x050 + 5 * Vx`, all eight bits of Vx (43_memory_index.md rule R152). -/
def glyphAddr (vx : Byte) : Word := BitVec.ofNat 16 (Config.fontBase + 5 * vx.toNat)

/-- The base address of a data access: I, in unbounded integers (43_memory_index.md rule R156). -/
def State.dataBase (s : State) : Nat := s.i.toNat

/-- The three bytes of Fx33: hundreds, tens, ones (43_memory_index.md rule R153). -/
def bcdBytes (vx : Byte) : List Byte :=
  [BitVec.ofNat 8 (vx.toNat / 100), BitVec.ofNat 8 (vx.toNat / 10 % 10), BitVec.ofNat 8 (vx.toNat % 10)]

/-- The x + 1 bytes of Fx55: V0 to Vx (43_memory_index.md rule R154). -/
def blockBytes (s : State) (x : RegIdx) : List Byte := s.v.toList.take (x.val + 1)

/-- Fx65: V with its first `n` registers read from `base` up, in ascending order (43_memory_index.md rule R155). -/
def loadBlock (m : Memory) (base : Nat) : Nat → Vector Byte 16 → Vector Byte 16
  | 0, v => v
  | n + 1, v => (loadBlock m base n v).setIfInBounds n (m.read (base + n))

/-- The key that a byte names: none above 15 (44_timers_keys.md rule R178). -/
def keyOf (b : Byte) : Option RegIdx := if h : b.toNat < 16 then some ⟨b.toNat, h⟩ else none

/-! ### The sprite renderer (42_display.md rules R142 to R145) -/

/-- Pixel (cx, cy), `VID[cy*64 + cx]` (R142); off outside the grid. -/
def pixel (p : Screen) (cx cy : Nat) : Bool := if h : cy < 32 then p[cy].getLsbD cx else false

/-- The display with every pixel off (R140). -/
def clearScreen : Screen := Vector.replicate 32 0

/-- `VID[k]`: row-major from the top left, so column `k mod 64` of row `k / 64` (10_state.md rule R17). -/
def vidElem (p : Screen) (k : Nat) : Bool := pixel p (k % Config.displayW) (k / Config.displayW)

/-- `VID[idx] <- VID[idx] XOR 1` for the pixel (cx, cy). -/
def togglePixel (p : Screen) (cx cy : Nat) : Screen :=
  if h : cy < 32 then p.set cy (p[cy] ^^^ BitVec.twoPow 64 cx) else p

/-- One set sprite bit at (px, py): clipped outside the grid, else a collision if the pixel was on, and the toggle
(R144, R145). The Bool is the collision so far. -/
def plot (d : Screen × Bool) (px py : Nat) : Screen × Bool :=
  if px ≤ 63 ∧ py ≤ 31 then (togglePixel d.1 px py, d.2 || pixel d.1 px py) else d

/-- The first `c` columns of a sprite row: bit 7 is the leftmost (R143). -/
def drawRow (b : Byte) (xpos py : Nat) : Nat → Screen × Bool → Screen × Bool
  | 0, d => d
  | c + 1, d =>
    if b.getLsbD (7 - c) then plot (drawRow b xpos py c d) (xpos + c) py else drawRow b xpos py c d

/-- The first `r` rows of the sprite at `base`, row r at display row `ypos + r` (R141, R143). -/
def drawRows (m : Memory) (base xpos ypos : Nat) : Nat → Screen × Bool → Screen × Bool
  | 0, d => d
  | r + 1, d => drawRow (m.read (base + r)) xpos (ypos + r) 8 (drawRows m base xpos ypos r d)

/-- The whole of Dxyn's drawing: the start wraps, the rest clips (R144); the display after it and the collision. -/
def drawSprite (m : Memory) (base n : Nat) (vx vy : Byte) (p : Screen) : Screen × Bool :=
  drawRows m base (vx.toNat % Config.displayW) (vy.toNat % Config.displayH) n (p, false)

end Sys2Proof.Machine
end

