-- ==== Sys2Proof/Machine/Arith.lean ====
section
/-! DEFINITION. The arithmetic and register operations (40_arithmetic_register.md).

Every meaning takes the state the cycle began with (PC at the instruction) and answers the state after step 4 of the
cycle, PC advanced (30_encoding.md rules R64, R65). The timer tick of step 5 is `runCycle`'s. -/

namespace Sys2Proof.Machine

open Host (Outcome)

/-- 6xkk (R100). -/
def execLdImm (x : RegIdx) (kk : Byte) (s : State) : Outcome State Fault Refusal :=
  .next (s.advance.setV x kk)

/-- 7xkk: wraps, VF unaffected (R101). -/
def execAddImm (x : RegIdx) (kk : Byte) (s : State) : Outcome State Fault Refusal :=
  .next (s.advance.setV x (s.getV x + kk))

/-- 8xy0 (R102). -/
def execLdReg (x y : RegIdx) (s : State) : Outcome State Fault Refusal :=
  .next (s.advance.setV x (s.getV y))

/-- 8xy1, VF not written (R103). -/
def execOrReg (x y : RegIdx) (s : State) : Outcome State Fault Refusal :=
  .next (s.advance.setV x (s.getV x ||| s.getV y))

/-- 8xy2, VF not written (R104). -/
def execAndReg (x y : RegIdx) (s : State) : Outcome State Fault Refusal :=
  .next (s.advance.setV x (s.getV x &&& s.getV y))

/-- 8xy3, VF not written (R105). -/
def execXorReg (x y : RegIdx) (s : State) : Outcome State Fault Refusal :=
  .next (s.advance.setV x (s.getV x ^^^ s.getV y))

/-- 8xy4: VF = carry (R106). -/
def execAddReg (x y : RegIdx) (s : State) : Outcome State Fault Refusal :=
  .next (s.advance.setResultFlag x (s.getV x + s.getV y) (carryFlag (s.getV x) (s.getV y)))

/-- 8xy5: VF = Vx > Vy, strict (R107, R112). -/
def execSubReg (x y : RegIdx) (s : State) : Outcome State Fault Refusal :=
  .next (s.advance.setResultFlag x (s.getV x - s.getV y) (greaterFlag (s.getV x) (s.getV y)))

/-- 8xy6: shifts Vx in place, Vy neither read nor written (R108). -/
def execShr (x _y : RegIdx) (s : State) : Outcome State Fault Refusal :=
  .next (s.advance.setResultFlag x (s.getV x >>> 1) (lowBitFlag (s.getV x)))

/-- 8xy7: VF = Vy > Vx, strict (R109, R112). -/
def execSubn (x y : RegIdx) (s : State) : Outcome State Fault Refusal :=
  .next (s.advance.setResultFlag x (s.getV y - s.getV x) (greaterFlag (s.getV y) (s.getV x)))

/-- 8xyE: shifts Vx in place, Vy neither read nor written (R110). -/
def execShl (x _y : RegIdx) (s : State) : Outcome State Fault Refusal :=
  .next (s.advance.setResultFlag x (s.getV x <<< 1) (highBitFlag (s.getV x)))

/-- Cxkk with the random byte `r` of this cycle: `V[x] <- rnd AND kk` (R111). The model counts the byte as
consumed (log 3). -/
def rndWith (r : Byte) (x : RegIdx) (kk : Byte) (s : State) : Outcome State Fault Refusal :=
  .next (s.advance.drawn.setV x (r &&& kk))

/-- Cxkk: the byte is the free value `Config.rnd` of this draw (R111, 10_state.md rule R32; log 3). -/
def execRnd (x : RegIdx) (kk : Byte) (s : State) : Outcome State Fault Refusal :=
  rndWith (Config.rnd s.draws) x kk s

end Sys2Proof.Machine
end

