-- ==== Sys2Proof/Machine/Control.lean ====
section
/-! DEFINITION. The control-flow operations (41_control_flow.md) and the no-op of unmatched words (30_encoding.md
rule R72).

Every meaning takes the state the cycle began with (PC at the instruction) and answers the state after step 4 of the
cycle, PC advanced (30_encoding.md rules R64, R65). The timer tick of step 5 is `runCycle`'s. -/

namespace Sys2Proof.Machine

open Host (Outcome)

/-- 0nnn: a no-op (R120). -/
def execSys (_nnn : Imm12) (s : State) : Outcome State Fault Refusal := .next s.advance

/-- An unmatched word: a no-op, never fatal (30_encoding.md rule R72). -/
def execUnmatched (_w : Word) (s : State) : Outcome State Fault Refusal := .next s.advance

/-- 00EE: pop into PC; with an empty stack STACK_UNDERFLOW (R121). -/
def execRet (s : State) : Outcome State Fault Refusal :=
  match s.advance.pop with
  | some (a, t) => .next (t.setPc a)
  | none => .next (s.takeFault .stackUnderflow)

/-- 1nnn (R122). -/
def execJp (nnn : Imm12) (s : State) : Outcome State Fault Refusal :=
  .next (s.advance.setPc (zext16 nnn))

/-- 2nnn: push the advanced PC; with sixteen levels in use STACK_OVERFLOW (R123). -/
def execCall (nnn : Imm12) (s : State) : Outcome State Fault Refusal :=
  match s.advance.push s.advance.pc with
  | some t => .next (t.setPc (zext16 nnn))
  | none => .next (s.takeFault .stackOverflow)

/-- 3xkk (R124, R130). -/
def execSeImm (x : RegIdx) (kk : Byte) (s : State) : Outcome State Fault Refusal :=
  .next (s.advance.skipIf (s.getV x == kk))

/-- 4xkk (R125, R130). -/
def execSneImm (x : RegIdx) (kk : Byte) (s : State) : Outcome State Fault Refusal :=
  .next (s.advance.skipIf (s.getV x != kk))

/-- 5xy0 (R126, R130). -/
def execSeReg (x y : RegIdx) (s : State) : Outcome State Fault Refusal :=
  .next (s.advance.skipIf (s.getV x == s.getV y))

/-- 9xy0 (R127, R130). -/
def execSneReg (x y : RegIdx) (s : State) : Outcome State Fault Refusal :=
  .next (s.advance.skipIf (s.getV x != s.getV y))

/-- Bnnn: always V0, the sum not reduced modulo 4096 (R128). -/
def execJpV0 (nnn : Imm12) (s : State) : Outcome State Fault Refusal :=
  .next (s.advance.setPc (jumpOffset (s.getV 0) nnn))

end Sys2Proof.Machine
end

