-- ==== Sys2Proof/Machine/Display.lean ====
section
/-! DEFINITION. The display operations (42_display.md).

Every meaning takes the state the cycle began with (PC at the instruction) and answers the state after step 4 of the
cycle, PC advanced (30_encoding.md rules R64, R65). The timer tick of step 5 is `runCycle`'s. -/

namespace Sys2Proof.Machine

open Host (Outcome)

/-- 00E0: every pixel 0, VF not written (R140). -/
def execCls (s : State) : Outcome State Fault Refusal := .next (s.advance.setVid clearScreen)

/-- Dxyn: the range of all n bytes is checked first (DATA_RANGE), then the sprite is drawn, then VF gets the
collision, also for n = 0 (R141). -/
def execDrw (x y : RegIdx) (n : BitVec 4) (s : State) : Outcome State Fault Refusal :=
  if inRange s.dataBase n.toNat then
    let d := drawSprite s.mem s.dataBase n.toNat (s.getV x) (s.getV y) s.vid
    .next ((s.advance.setVid d.1).setFlag d.2)
  else .next (s.takeFault .dataRange)

end Sys2Proof.Machine
end

