-- ==== Sys2Proof/Machine/Index.lean ====
section
/-! DEFINITION. The index, BCD and register-block operations (43_memory_index.md). None writes VF as a flag, and
none but Annn, Fx1E and Fx29 writes I.

Every meaning takes the state the cycle began with (PC at the instruction) and answers the state after step 4 of the
cycle, PC advanced (30_encoding.md rules R64, R65). The timer tick of step 5 is `runCycle`'s. -/

namespace Sys2Proof.Machine

open Host (Outcome)

/-- Annn (R150). -/
def execLdI (nnn : Imm12) (s : State) : Outcome State Fault Refusal :=
  .next (s.advance.setI (zext16 nnn))

/-- Fx1E: modulo 65536, no flag (R151). -/
def execAddI (x : RegIdx) (s : State) : Outcome State Fault Refusal :=
  .next (s.advance.setI (addIndex s.i (s.getV x)))

/-- Fx29 (R152). -/
def execLdF (x : RegIdx) (s : State) : Outcome State Fault Refusal :=
  .next (s.advance.setI (glyphAddr (s.getV x)))

/-- Fx33: hundreds, tens, ones at I, I + 1, I + 2; DATA_RANGE before anything is written (R153). -/
def execLdB (x : RegIdx) (s : State) : Outcome State Fault Refusal :=
  if inRange s.dataBase 3 then
    .next (s.advance.setMem (s.mem.writeBytes s.dataBase (bcdBytes (s.getV x))))
  else .next (s.takeFault .dataRange)

/-- Fx55: V0 to Vx at I to I + x, I unchanged; DATA_RANGE before anything is written (R154). -/
def execStoreRegs (x : RegIdx) (s : State) : Outcome State Fault Refusal :=
  if inRange s.dataBase (x.val + 1) then
    .next (s.advance.setMem (s.mem.writeBytes s.dataBase (blockBytes s x)))
  else .next (s.takeFault .dataRange)

/-- Fx65: V0 to Vx from I to I + x, I unchanged; DATA_RANGE before any register is written (R155). -/
def execLoadRegs (x : RegIdx) (s : State) : Outcome State Fault Refusal :=
  if inRange s.dataBase (x.val + 1) then
    .next (s.advance.setAllV (loadBlock s.mem s.dataBase (x.val + 1) s.v))
  else .next (s.takeFault .dataRange)

end Sys2Proof.Machine
end

