-- ==== Sys2Proof/Machine/TimersKeys.lean ====
section
/-! DEFINITION. The timer and key operations (44_timers_keys.md).

Every meaning takes the state the cycle began with (PC at the instruction) and answers the state after step 4 of the
cycle, PC advanced (30_encoding.md rules R64, R65). The timer tick of step 5 is `runCycle`'s. -/

namespace Sys2Proof.Machine

open Host (Outcome)

/-- Fx07: reads DT before this cycle's tick (R170, R177). -/
def execLdVxDt (x : RegIdx) (s : State) : Outcome State Fault Refusal :=
  .next (s.advance.setV x s.dt)

/-- Fx15 (R171). -/
def execLdDtVx (x : RegIdx) (s : State) : Outcome State Fault Refusal :=
  .next (s.advance.setDt (s.getV x))

/-- Fx18 (R172). -/
def execLdStVx (x : RegIdx) (s : State) : Outcome State Fault Refusal :=
  .next (s.advance.setSt (s.getV x))

/-- Ex9E: the index is the content of Vx; above 15 KEY_RANGE (R173, R178). -/
def execSkp (x : RegIdx) (s : State) : Outcome State Fault Refusal :=
  match keyOf (s.getV x) with
  | some k => .next (s.advance.skipIf (s.pressed k))
  | none => .next (s.takeFault .keyRange)

/-- ExA1: the complement of Ex9E (R174, R178). -/
def execSknp (x : RegIdx) (s : State) : Outcome State Fault Refusal :=
  match keyOf (s.getV x) with
  | some k => .next (s.advance.skipIf (! s.pressed k))
  | none => .next (s.takeFault .keyRange)

/-- Fx0A: the lowest pressed key into Vx; with none pressed PC goes back to this instruction (R175). -/
def execLdVxK (x : RegIdx) (s : State) : Outcome State Fault Refusal :=
  match s.lowestKey with
  | some k => .next (s.advance.setV x (BitVec.ofNat 8 k.val))
  | none => .next (s.advance.setPc (s.advance.pc - 2))

end Sys2Proof.Machine
end

