-- ==== Sys2Proof/Machine/Step.lean ====
section
/-! DEFINITION. One step: one `Cycle` of the core (30_encoding.md rule R64). -/

namespace Sys2Proof.Machine

/-- One cycle, its random byte being the free value of this draw (log 3). -/
def step (s : State) : Host.Outcome State Fault Refusal := runCycle exec s

/-- `s` with the instruction of `nbits` bits `w` stored where the next cycle fetches, at PC, high byte first (20_memory.md
rule R44). Nothing else is changed. It stands for the load of a program from outside (log 9). -/
def State.withFetchWord (s : State) (nbits w : Nat) : State :=
  s.setMem (s.mem.writeBytes s.pc.toNat (tableBytes nbits w))

end Sys2Proof.Machine
end

