-- ==== Sys2Proof/Machine/HostPort.lean ====
section
/-! DEFINITION. What the outside world does to the core: the seven transactions of 10_state.md rule R24. The host
acts only between cycles (R31); each transaction is one function of the state (log 8). -/

namespace Sys2Proof.Machine

open Host (Outcome)

/-- `Reset()`: every piece of state at its reset value, whatever it was, a halted core and a loaded program included
(R25). The model's own `draws` goes on, so that the random bytes after a reset are not those from before it (log 3). -/
def hostReset (s : State) : State := { State.reset with draws := s.draws }

/-- `LoadROM(bytes)`: up to 3584 bytes to 0x200 and up, verbatim, nothing else changed (R26); a longer image is
rejected whole (R27). The Bool is success. -/
def loadRom (bytes : List Byte) (s : State) : State × Bool :=
  if bytes.length ≤ Config.maxRom then (s.setMem (s.mem.writeBytes Config.progBase bytes), true) else (s, false)

/-- `SetKeys(k)` (R28). -/
def setKeys (k : KeySet) (s : State) : State := s.setKey k

/-- One element of `ReadVideo()`: all ones for a pixel that is on, else 0 (R18). -/
def videoWord (on : Bool) : BitVec 32 := if on then 0xFFFFFFFF else 0

/-- `ReadVideo()`: 2048 words, row-major from the top left (R29). -/
def readVideo (s : State) : List (BitVec 32) := (List.range 2048).map (fun k => videoWord (vidElem s.vid k))

/-- `ReadSound()` (R30). -/
def readSound (s : State) : Byte := s.st

/-- The host plays its tone while ST is nonzero (R30). -/
def tone (s : State) : Bool := readSound s != 0

/-- `ReadFault()` (R33). -/
def readFault (s : State) : BitVec 3 := s.flt

/-- Step 4 of a cycle with the host's random byte `r`: only Cxkk looks at it (R32). -/
def execWith (r : Byte) (i : Instr) (s : State) : Outcome State Fault Refusal :=
  match i with
  | .rnd x kk => rndWith r x kk s
  | j => exec j s

/-- `Cycle(rnd)` with an explicit random byte. `step` is this with the free value of the draw. -/
def cycle (r : Byte) (s : State) : Outcome State Fault Refusal := runCycle (execWith r) s

/-- What `Cycle` returns to the host: ok, or the fault with its cause (R33, 30_encoding.md rule R64). -/
inductive Report where
  /-- The cycle completed. -/
  | ok
  /-- The cycle faulted, or the core was halted already: the cause in FLT. -/
  | fault (cause : BitVec 3)
  deriving DecidableEq, Repr

/-- The report of a cycle, read off the state it leaves: FLT is nonzero exactly after a fault or in a halted core
(60_exceptions.md rules R201, R202). -/
def cycleReport (s : State) : Report := if s.flt = 0 then .ok else .fault s.flt

/-- A host transaction (R24). -/
inductive HostOp where
  | reset
  | loadRom (bytes : List Byte)
  | setKeys (k : KeySet)
  | cycle (rnd : Byte)
  | readVideo
  | readSound
  | readFault
  deriving DecidableEq, Repr

/-- What a transaction returns (R24). -/
inductive HostReply where
  | done
  | loaded (success : Bool)
  | report (r : Report)
  | video (words : List (BitVec 32))
  | sound (st : Byte)
  | fault (flt : BitVec 3)
  deriving DecidableEq, Repr

/-- One transaction: the state after it and its reply (R24). -/
def hostOp (op : HostOp) (s : State) : Outcome (State × HostReply) Fault Refusal :=
  match op with
  | .reset => .next (hostReset s, .done)
  | .loadRom bytes => .next ((loadRom bytes s).1, .loaded (loadRom bytes s).2)
  | .setKeys k => .next (setKeys k s, .done)
  | .cycle r =>
    match cycle r s with
    | .next t => .next (t, .report (cycleReport t))
    | .fault e => .fault e
    | .refused e => .refused e
  | .readVideo => .next (s, .video (readVideo s))
  | .readSound => .next (s, .sound (readSound s))
  | .readFault => .next (s, .fault (readFault s))

/-- The launch state of 70_reset_and_hazards.md rule R231: reset with the image at 0x200; none for an image that is
too long (92_eei_decisions.md D9, D10). -/
def launch (bytes : List Byte) : Option State :=
  if (loadRom bytes State.reset).2 then some (loadRom bytes State.reset).1 else none

end Sys2Proof.Machine
end

