-- ==== Sys2Proof/Safety.lean ====
section
/-! DEFINITION. The terms claims are stated in: running and halted, the invariant, the pieces of state a claim says
are kept, what raises a fault, which pixels a sprite covers, and the end of a program. -/

namespace Sys2Proof

open Sys2Proof.Machine

/-! ### Running and halted (60_exceptions.md rules R200 to R202) -/

/-- The core runs: no fault is latched. A run is safe as long as this holds. -/
abbrev Running (s : State) : Prop := s.flt = 0

/-- The core is halted by a fault, until the host resets it. -/
abbrev Halted (s : State) : Prop := s.flt ≠ 0

/-! ### The invariant -/

/-- Memory is in its one canonical form. -/
abbrev MemCanonical (s : State) : Prop := s.mem.wf = true

/-- PC is at most the largest value 10_state.md rule R13 gives. -/
abbrev PcBounded (s : State) : Prop := s.pc.toNat ≤ 0x10FE

/-- Every return address on the stack is at most 0x1000: a call sits at 0xFFE or below (R123, R46). -/
abbrev ReturnsBounded (s : State) : Prop := ∀ k : Fin 16, s.stack[k.val].toNat ≤ 0x1000

/-- FLT is 0 or one of the five causes; 6 and 7 are never produced (10_state.md rule R21). -/
abbrev FltLegal (s : State) : Prop := s.flt.toNat ≤ 5

/-- What every step and every host transaction keeps. -/
abbrev StateInv (s : State) : Prop := MemCanonical s ∧ PcBounded s ∧ ReturnsBounded s ∧ FltLegal s

/-! ### What an operation leaves alone -/

/-- The pieces of state besides PC. -/
inductive Piece where
  | regs | index | callStack | delay | sound | keys | display | memory | latch | draws
  deriving DecidableEq, Repr

/-- A piece of state is the same in `t` as in `s`; memory byte by byte, as it reads. -/
def Piece.Same (s t : State) : Piece → Prop
  | .regs => ∀ r, t.getV r = s.getV r
  | .index => t.i = s.i
  | .callStack => t.stack = s.stack ∧ t.sp = s.sp
  | .delay => t.dt = s.dt
  | .sound => t.st = s.st
  | .keys => t.key = s.key
  | .display => t.vid = s.vid
  | .memory => ∀ a, t.mem.read a = s.mem.read a
  | .latch => t.flt = s.flt
  | .draws => t.draws = s.draws

/-- The frame: every piece but those named is the same (30_encoding.md rule R78). -/
def KeepsAllBut (written : List Piece) (s t : State) : Prop := ∀ p, p ∉ written → p.Same s t

/-- Every V register but those named is the same. -/
def RegsButKept (regs : List RegIdx) (s t : State) : Prop := ∀ r, r ∉ regs → t.getV r = s.getV r

/-- Every byte of memory outside the `n` bytes from `base` reads the same. -/
def MemKeptOutside (base n : Nat) (s t : State) : Prop :=
  ∀ a, (a < base ∨ base + n ≤ a) → t.mem.read a = s.mem.read a

/-- The words of an opcode table row, by mask and match, decode to the instruction `mk` makes of them. -/
def EncodedAs (mask value : Word) (mk : Word → Instr) : Prop := ∀ w : Word, w &&& mask = value → decodeWord w = mk w

/-! ### Which operations write what (the "written by" column of 10_state.md section 1) -/

/-- The operations that write I (R12). -/
def writesIndex : Instr → Bool
  | .ldI _ | .addI _ | .ldF _ => true
  | _ => false

/-- The operations that write the display (R17). -/
def writesDisplay : Instr → Bool
  | .cls | .drw _ _ _ => true
  | _ => false

/-- The operations that write memory (R40). -/
def writesMemory : Instr → Bool
  | .ldB _ | .storeRegs _ => true
  | _ => false

/-- The operations that write the stack or SP (R14). -/
def writesStack : Instr → Bool
  | .ret | .call _ => true
  | _ => false

/-- The V registers an operation writes (10_state.md section 1, R11). -/
def writtenRegs : Instr → List RegIdx
  | .ldImm x _ | .addImm x _ | .ldReg x _ | .orReg x _ | .andReg x _ | .xorReg x _ | .rnd x _ | .ldVxDt x
  | .ldVxK x => [x]
  | .addReg x _ | .subReg x _ | .shr x _ | .subn x _ | .shl x _ => [x, 15]
  | .drw _ _ _ => [15]
  | .loadRegs x => keyOrder.filter (fun r => r ≤ x)
  | _ => []

/-- The operations that write VF as a flag (R11). -/
def writesFlag : Instr → Bool
  | .addReg _ _ | .subReg _ _ | .shr _ _ | .subn _ _ | .shl _ _ | .drw _ _ _ => true
  | _ => false

/-! ### Faults -/

/-- The fault an operation raises in a state, as the table of 60_exceptions.md rule R200 lists them. -/
def faultOf (i : Instr) (s : State) : Option Fault :=
  match i with
  | .drw _ _ n => if 0 < n.toNat ∧ s.i.toNat + n.toNat - 1 > 0xFFF then some .dataRange else none
  | .ldB _ => if s.i.toNat + 2 > 0xFFF then some .dataRange else none
  | .storeRegs x | .loadRegs x => if s.i.toNat + x.val > 0xFFF then some .dataRange else none
  | .call _ => if s.sp = 16 then some .stackOverflow else none
  | .ret => if s.sp = 0 then some .stackUnderflow else none
  | .skp x | .sknp x => if (s.getV x).toNat > 15 then some .keyRange else none
  | _ => none

/-! ### Drawing -/

/-- Whether the `n`-byte sprite at `base`, its corner at (xpos, ypos), has a set bit on pixel (cx, cy): bit `7 - c`
of byte `r` falls on (xpos + c, ypos + r) (42_display.md rules R143, R144). -/
def spriteCovers (m : Memory) (base n xpos ypos cx cy : Nat) : Bool :=
  decide (xpos ≤ cx ∧ cx < xpos + 8 ∧ ypos ≤ cy ∧ cy < ypos + n) &&
    (m.read (base + (cy - ypos))).getLsbD (7 - (cx - xpos))

/-! ### The end of a program -/

/-- The convention of 70_reset_and_hazards.md rule R233: PC at a jump to itself, and no fault. -/
def Ended (s : State) : Prop := Running s ∧ ∃ nnn, s.fetch.map decodeWord = some (.jp nnn) ∧ nnn.toNat = s.pc.toNat

end Sys2Proof
end

