-- ==== Sys2Proof/Certificates/Slice0/Obligations.lean ====
section
/-! DEFINITION. The statements for the provers. Each docstring names the rule of spec/ it formalises; where a clause
is the spec's own decision, derivation or general knowledge, or the model's choice, it says so. Throughout, that an
operation writes nothing its rule does not name is 30_encoding.md rule R78 (decision D1), and that operands are sampled
first and a flag is written last is its rule R77 (decision D2). -/

open Sys2Proof Sys2Proof.Machine

/-! ### Encoding and decoding -/

/-- Words written out from the patterns of 30_encoding.md rule R66, at least one of each family, decode to what they
stand for; and one instruction byte by byte, bits 15:8 at the lower address (20_memory.md rule R44). -/
def Obligations.WrittenOutWordsDecode : Prop :=
  decodeWord 0x00E0 = .cls ∧ decodeWord 0x00EE = .ret ∧ decodeWord 0x0123 = .sys 0x123 ∧
  decodeWord 0x220C = .call 0x20C ∧ decodeWord 0x5237 = .seReg 2 3 ∧ decodeWord 0x7305 = .addImm 3 0x05 ∧
  decodeWord 0x80F4 = .addReg 0 15 ∧ decodeWord 0x870E = .shl 7 0 ∧ decodeWord 0xD125 = .drw 1 2 5 ∧
  decodeWord 0xE5A1 = .sknp 5 ∧ decodeWord 0xF233 = .ldB 2 ∧ decodeWord 0xF50A = .ldVxK 5 ∧
  decodeWord 0x8FF8 = .unmatched 0x8FF8 ∧ decodeWord 0xE59F = .unmatched 0xE59F ∧
  decode [0x22, 0x0C, 0x6A] = .ok (.call 0x20C, [0x6A]) ∧ encodeBytes (.call 0x20C) = [0x22, 0x0C]

/-- Decode and encode agree: the bytes of any well-formed instruction, every operand at every value its field
admits, decode to that instruction and leave the bytes after it (30_encoding.md sections 1 to 3). -/
def Obligations.DecodeOfEncodedInstruction : Prop :=
  ∀ (i : Instr) (rest : List Byte), i.wf = true → decode (encodeBytes i ++ rest) = .ok (i, rest)

/-- The other direction: every word decodes to a well-formed instruction, whose encoding is that word with the
nibble that 5xyN and 9xyN ignore set to 0 (30_encoding.md rules R66, R71). -/
def Obligations.EncodeOfDecodedWord : Prop :=
  ∀ w : Word, (decodeWord w).wf = true ∧ encode (decodeWord w) = canonicalWord w

/-- The layered decoder agrees with spec/opcode_table.json read in its priority order, first match wins. -/
def Obligations.DecodeIsFirstMatchingTableRow : Prop :=
  ∀ w : Word, tableLookup w = some (rowOf (decodeWord w))

/-- The unmatched words are exactly those of 30_encoding.md rule R73 (which the spec marks as derived). -/
def Obligations.UnmatchedWordsExactly : Prop :=
  ∀ w : Word, (∃ u, decodeWord w = .unmatched u) ↔ isUnmatchedWord w = true

/-- 30_encoding.md rule R71: for primaries 0x1 to 0x7, 0x9 and 0xA to 0xD the primary selector alone chooses the
operation; 0x5xyN and 0x9xyN execute as 5xy0 and 9xy0 for every N; the canonical encoding has N = 0. -/
def Obligations.PrimarySelectorAloneDecides : Prop :=
  (∀ w w' : Word, fieldOp w = fieldOp w' → fieldOp w ∉ [0x0#4, 0x8#4, 0xE#4, 0xF#4] →
    rowOf (decodeWord w) = rowOf (decodeWord w')) ∧
  (∀ (x y : RegIdx) (n : BitVec 4), decodeWord (formXyn 0x5 x y n) = .seReg x y ∧
    decodeWord (formXyn 0x9 x y n) = .sneReg x y) ∧
  (∀ x y : RegIdx, fieldN (encode (.seReg x y)) = 0 ∧ fieldN (encode (.sneReg x y)) = 0)

/-! ### Arithmetic and registers (40_arithmetic_register.md) -/

/-- R100, R101: 6xkk loads kk; 7xkk adds kk modulo 256, VF unaffected unless it is the destination. -/
def Obligations.ImmediateLoadAndAdd : Prop :=
  (∀ (x : RegIdx) (kk : Byte) (s : State), ∃ t, exec (.ldImm x kk) s = .next t ∧ t.pc = s.pc + 2 ∧
    t.getV x = kk ∧ RegsButKept [x] s t ∧ KeepsAllBut [.regs] s t) ∧
  (∀ (x : RegIdx) (kk : Byte) (s : State), ∃ t, exec (.addImm x kk) s = .next t ∧ t.pc = s.pc + 2 ∧
    (t.getV x).toNat = ((s.getV x).toNat + kk.toNat) % 256 ∧ RegsButKept [x] s t ∧ KeepsAllBut [.regs] s t) ∧
  EncodedAs 0xF000 0x6000 (fun w => .ldImm (fieldX w) (fieldKk w)) ∧
  EncodedAs 0xF000 0x7000 (fun w => .addImm (fieldX w) (fieldKk w))

/-- R102 to R105: copy, OR, AND, XOR; VF is not written unless it is the destination. -/
def Obligations.CopyAndLogic : Prop :=
  (∀ (x y : RegIdx) (s : State), ∃ t, exec (.ldReg x y) s = .next t ∧ t.pc = s.pc + 2 ∧
    t.getV x = s.getV y ∧ RegsButKept [x] s t ∧ KeepsAllBut [.regs] s t) ∧
  (∀ (x y : RegIdx) (s : State), ∃ t, exec (.orReg x y) s = .next t ∧ t.pc = s.pc + 2 ∧
    (∀ b, (t.getV x).getLsbD b = ((s.getV x).getLsbD b || (s.getV y).getLsbD b)) ∧
    RegsButKept [x] s t ∧ KeepsAllBut [.regs] s t) ∧
  (∀ (x y : RegIdx) (s : State), ∃ t, exec (.andReg x y) s = .next t ∧ t.pc = s.pc + 2 ∧
    (∀ b, (t.getV x).getLsbD b = ((s.getV x).getLsbD b && (s.getV y).getLsbD b)) ∧
    RegsButKept [x] s t ∧ KeepsAllBut [.regs] s t) ∧
  (∀ (x y : RegIdx) (s : State), ∃ t, exec (.xorReg x y) s = .next t ∧ t.pc = s.pc + 2 ∧
    (∀ b, (t.getV x).getLsbD b = ((s.getV x).getLsbD b ^^ (s.getV y).getLsbD b)) ∧
    RegsButKept [x] s t ∧ KeepsAllBut [.regs] s t) ∧
  EncodedAs 0xF00F 0x8000 (fun w => .ldReg (fieldX w) (fieldY w)) ∧
  EncodedAs 0xF00F 0x8001 (fun w => .orReg (fieldX w) (fieldY w)) ∧
  EncodedAs 0xF00F 0x8002 (fun w => .andReg (fieldX w) (fieldY w)) ∧
  EncodedAs 0xF00F 0x8003 (fun w => .xorReg (fieldX w) (fieldY w))

/-- R106: 8xy4 writes the sum modulo 256 and VF = carry, the flag last, so VF holds it for x = 0xF too. -/
def Obligations.AddSetsCarry : Prop :=
  (∀ (x y : RegIdx) (s : State), ∃ t, exec (.addReg x y) s = .next t ∧ t.pc = s.pc + 2 ∧
    t.getV 15 = (if (s.getV x).toNat + (s.getV y).toNat > 255 then 1 else 0) ∧
    (x ≠ 15 → (t.getV x).toNat = ((s.getV x).toNat + (s.getV y).toNat) % 256) ∧
    RegsButKept [x, 15] s t ∧ KeepsAllBut [.regs] s t) ∧
  EncodedAs 0xF00F 0x8004 (fun w => .addReg (fieldX w) (fieldY w))

/-- R107, R109: 8xy5 and 8xy7 subtract modulo 256; VF = 1 exactly when the minuend was strictly greater. -/
def Obligations.SubtractionsSetStrictFlag : Prop :=
  (∀ (x y : RegIdx) (s : State), ∃ t, exec (.subReg x y) s = .next t ∧ t.pc = s.pc + 2 ∧
    t.getV 15 = (if (s.getV x).toNat > (s.getV y).toNat then 1 else 0) ∧
    (x ≠ 15 → ((t.getV x).toNat : Int) = (((s.getV x).toNat : Int) - (s.getV y).toNat) % 256) ∧
    RegsButKept [x, 15] s t ∧ KeepsAllBut [.regs] s t) ∧
  (∀ (x y : RegIdx) (s : State), ∃ t, exec (.subn x y) s = .next t ∧ t.pc = s.pc + 2 ∧
    t.getV 15 = (if (s.getV y).toNat > (s.getV x).toNat then 1 else 0) ∧
    (x ≠ 15 → ((t.getV x).toNat : Int) = (((s.getV y).toNat : Int) - (s.getV x).toNat) % 256) ∧
    RegsButKept [x, 15] s t ∧ KeepsAllBut [.regs] s t) ∧
  EncodedAs 0xF00F 0x8005 (fun w => .subReg (fieldX w) (fieldY w)) ∧
  EncodedAs 0xF00F 0x8007 (fun w => .subn (fieldX w) (fieldY w))

/-- R108, R110: the shifts move Vx by one in place and VF gets the bit shifted out; Vy plays no part. -/
def Obligations.ShiftsSetShiftedOutBit : Prop :=
  (∀ (x y : RegIdx) (s : State), ∃ t, exec (.shr x y) s = .next t ∧ t.pc = s.pc + 2 ∧
    (t.getV 15).toNat = (s.getV x).toNat % 2 ∧ (x ≠ 15 → (t.getV x).toNat = (s.getV x).toNat / 2) ∧
    RegsButKept [x, 15] s t ∧ KeepsAllBut [.regs] s t) ∧
  (∀ (x y : RegIdx) (s : State), ∃ t, exec (.shl x y) s = .next t ∧ t.pc = s.pc + 2 ∧
    (t.getV 15).toNat = (s.getV x).toNat / 128 ∧ (x ≠ 15 → (t.getV x).toNat = ((s.getV x).toNat * 2) % 256) ∧
    RegsButKept [x, 15] s t ∧ KeepsAllBut [.regs] s t) ∧
  EncodedAs 0xF00F 0x8006 (fun w => .shr (fieldX w) (fieldY w)) ∧
  EncodedAs 0xF00F 0x800E (fun w => .shl (fieldX w) (fieldY w))

/-- R111 with 10_state.md R32 (the spec's decision D7, a free input): whatever random byte the host gives, Cxkk
writes that byte AND kk; the step's byte is the model's free value (log 3). -/
def Obligations.RandomByteIsMasked : Prop :=
  (∀ (r : Byte) (x : RegIdx) (kk : Byte) (s : State), ∃ t, execWith r (.rnd x kk) s = .next t ∧ t.pc = s.pc + 2 ∧
    t.getV x = r &&& kk ∧ RegsButKept [x] s t ∧ KeepsAllBut [.regs, .draws] s t) ∧
  (∀ (x : RegIdx) (kk : Byte) (s : State), ∃ t, exec (.rnd x kk) s = .next t ∧ t.pc = s.pc + 2 ∧
    t.getV x = Config.rnd s.draws &&& kk ∧ t.getV x &&& ~~~kk = 0 ∧ t.draws = s.draws + 1 ∧
    RegsButKept [x] s t ∧ KeepsAllBut [.regs, .draws] s t) ∧
  EncodedAs 0xF000 0xC000 (fun w => .rnd (fieldX w) (fieldKk w))

/-- The flag part of 10_state.md rule R11: the six flag writers leave 0 or 1 in VF on every execution that does not
fault; every other operation leaves VF alone unless VF is one of the registers it names as its destination. -/
def Obligations.FlagWritersExactly : Prop :=
  ∀ (i : Instr) (s t : State), exec i s = .next t → faultOf i s = none →
    (writesFlag i = true → t.getV 15 = 0 ∨ t.getV 15 = 1) ∧
    (writesFlag i = false → 15 ∉ writtenRegs i → t.getV 15 = s.getV 15)

/-! ### Control flow (41_control_flow.md) -/

/-- R120: every word 0x0nnn but 0x00E0 and 0x00EE is the no-op 0nnn, in step 4 and over the whole cycle with its
tick. Beside it the same of an unmatched word in step 4 (30_encoding.md rule R72). -/
def Obligations.NoOpsOnlyAdvance : Prop :=
  (∀ (nnn : Imm12) (s : State), ∃ t, exec (.sys nnn) s = .next t ∧ t.pc = s.pc + 2 ∧ KeepsAllBut [] s t) ∧
  (∀ (nnn : Imm12) (s : State), Running s → s.fetch.map decodeWord = some (.sys nnn) →
    ∃ t, step s = .next t ∧ t.pc = s.pc + 2 ∧ Running t ∧ t.dt.toNat = s.dt.toNat - 1 ∧
      t.st.toNat = s.st.toNat - 1 ∧ KeepsAllBut [.delay, .sound] s t) ∧
  (∀ w : Word, w &&& 0xF000 = 0 → w ≠ 0x00E0 → w ≠ 0x00EE → decodeWord w = .sys (fieldNnn w)) ∧
  (∀ (w : Word) (s : State), ∃ t, exec (.unmatched w) s = .next t ∧ t.pc = s.pc + 2 ∧ KeepsAllBut [] s t)

/-- 30_encoding.md rule R72, the whole cycle: an unmatched word advances PC, ticks the timers and does nothing
else; no fault. -/
def Obligations.UnmatchedWordCycle : Prop :=
  ∀ (s : State) (w : Word), Running s → s.fetch = some w → isUnmatchedWord w = true →
    ∃ t, step s = .next t ∧ t.pc = s.pc + 2 ∧ Running t ∧ t.dt.toNat = s.dt.toNat - 1 ∧
      t.st.toNat = s.st.toNat - 1 ∧ KeepsAllBut [.delay, .sound] s t

/-- R122, R128: 1nnn sets PC to nnn; Bnnn to V0 + nnn, not reduced modulo 4096. -/
def Obligations.JumpsSetPc : Prop :=
  (∀ (nnn : Imm12) (s : State), ∃ t, exec (.jp nnn) s = .next t ∧ t.pc.toNat = nnn.toNat ∧ KeepsAllBut [] s t) ∧
  (∀ (nnn : Imm12) (s : State), ∃ t, exec (.jpV0 nnn) s = .next t ∧
    t.pc.toNat = (s.getV 0).toNat + nnn.toNat ∧ KeepsAllBut [] s t) ∧
  EncodedAs 0xF000 0x1000 (fun w => .jp (fieldNnn w)) ∧
  EncodedAs 0xF000 0xB000 (fun w => .jpV0 (fieldNnn w))

/-- 2nnn (R123): with fewer than sixteen levels in use it pushes the advanced PC; with sixteen it takes
STACK_OVERFLOW (the spec's decision D3), which changes nothing but FLT. -/
def Obligations.CallPushesOrOverflows : Prop :=
  (∀ (nnn : Imm12) (s : State) (k : Fin 16), s.sp.val = k.val → ∃ t, exec (.call nnn) s = .next t ∧
    t.pc.toNat = nnn.toNat ∧ t.sp.val = k.val + 1 ∧ t.stack[k.val] = s.pc + 2 ∧
    (∀ j : Fin 16, j ≠ k → t.stack[j.val] = s.stack[j.val]) ∧ KeepsAllBut [.callStack] s t) ∧
  (∀ (nnn : Imm12) (s : State), s.sp = 16 → exec (.call nnn) s = .next (s.takeFault .stackOverflow)) ∧
  EncodedAs 0xF000 0x2000 (fun w => .call (fieldNnn w))

/-- 00EE (R121): with an entry in use it decrements SP and sets PC to the value popped, which stays in its entry;
with an empty stack it takes STACK_UNDERFLOW (the spec's decision D3). -/
def Obligations.ReturnPopsOrUnderflows : Prop :=
  (∀ (s : State) (k : Fin 16), s.sp.val = k.val + 1 → ∃ t, exec .ret s = .next t ∧
    t.pc = s.stack[k.val] ∧ t.sp.val = k.val ∧ t.stack = s.stack ∧ KeepsAllBut [.callStack] s t) ∧
  (∀ s : State, s.sp = 0 → exec .ret s = .next (s.takeFault .stackUnderflow)) ∧
  decodeWord 0x00EE = .ret

/-- Call and return round trip (95_test_vectors.md E5): whatever ran in between, nested calls and their returns
included, if it left SP and the one entry the call wrote as the call did, 00EE goes to the word after the call and
gives SP back. -/
def Obligations.ReturnGoesToTheWordAfterTheCall : Prop :=
  ∀ (nnn : Imm12) (s t u : State) (k : Fin 16), s.sp.val = k.val → exec (.call nnn) s = .next t →
    u.stack[k.val] = t.stack[k.val] → u.sp = t.sp →
    ∃ w, exec .ret u = .next w ∧ w.pc = s.pc + 2 ∧ w.sp = s.sp

/-- R124, R125: the skips on an immediate, exact complements of each other. -/
def Obligations.SkipsOnImmediate : Prop :=
  (∀ (x : RegIdx) (kk : Byte) (s : State), ∃ t, exec (.seImm x kk) s = .next t ∧
    t.pc = (if (s.getV x).toNat = kk.toNat then s.pc + 4 else s.pc + 2) ∧ KeepsAllBut [] s t) ∧
  (∀ (x : RegIdx) (kk : Byte) (s : State), ∃ t, exec (.sneImm x kk) s = .next t ∧
    t.pc = (if (s.getV x).toNat = kk.toNat then s.pc + 2 else s.pc + 4) ∧ KeepsAllBut [] s t) ∧
  EncodedAs 0xF000 0x3000 (fun w => .seImm (fieldX w) (fieldKk w)) ∧
  EncodedAs 0xF000 0x4000 (fun w => .sneImm (fieldX w) (fieldKk w))

/-- R126, R127: the skips on two registers, for every low nibble of the word. -/
def Obligations.SkipsOnRegisters : Prop :=
  (∀ (x y : RegIdx) (s : State), ∃ t, exec (.seReg x y) s = .next t ∧
    t.pc = (if (s.getV x).toNat = (s.getV y).toNat then s.pc + 4 else s.pc + 2) ∧ KeepsAllBut [] s t) ∧
  (∀ (x y : RegIdx) (s : State), ∃ t, exec (.sneReg x y) s = .next t ∧
    t.pc = (if (s.getV x).toNat = (s.getV y).toNat then s.pc + 2 else s.pc + 4) ∧ KeepsAllBut [] s t) ∧
  EncodedAs 0xF000 0x5000 (fun w => .seReg (fieldX w) (fieldY w)) ∧
  EncodedAs 0xF000 0x9000 (fun w => .sneReg (fieldX w) (fieldY w))

/-! ### Display (42_display.md) -/

/-- R140: 00E0 turns every pixel off, so ReadVideo then returns 2048 zero words, and it writes nothing else. -/
def Obligations.ClearScreenTurnsPixelsOff : Prop :=
  (∀ s : State, ∃ t, exec .cls s = .next t ∧ t.pc = s.pc + 2 ∧
    (∀ k, k < 2048 → vidElem t.vid k = false) ∧ readVideo t = List.replicate 2048 0 ∧
    KeepsAllBut [.display] s t) ∧
  decodeWord 0x00E0 = .cls

/-- Dxyn (R141, R144, R145): when its n bytes exist it toggles exactly the pixels of the grid its set bits fall on,
and VF is 1 exactly when one of them was on. The clipping is the spec's decision D4; that bit 7 is leftmost is its D5
(from general knowledge); the range check and n = 0 are D3 and D23. -/
def Obligations.DrawTogglesCoveredPixels : Prop :=
  ∀ (x y : RegIdx) (n : BitVec 4) (s : State), (n = 0 ∨ s.i.toNat + n.toNat - 1 ≤ 0xFFF) →
    ∃ t, exec (.drw x y n) s = .next t ∧ t.pc = s.pc + 2 ∧
      (∀ cx cy, cx < 64 → cy < 32 → pixel t.vid cx cy =
        (pixel s.vid cx cy ^^ spriteCovers s.mem s.i.toNat n.toNat ((s.getV x).toNat % 64) ((s.getV y).toNat % 32) cx cy)) ∧
      ((t.getV 15 = 1 ∧ ∃ cx cy, cx < 64 ∧ cy < 32 ∧ pixel s.vid cx cy = true ∧
          spriteCovers s.mem s.i.toNat n.toNat ((s.getV x).toNat % 64) ((s.getV y).toNat % 32) cx cy = true) ∨
       (t.getV 15 = 0 ∧ ∀ cx cy, cx < 64 → cy < 32 → pixel s.vid cx cy = true →
          spriteCovers s.mem s.i.toNat n.toNat ((s.getV x).toNat % 64) ((s.getV y).toNat % 32) cx cy = false)) ∧
      RegsButKept [15] s t ∧ KeepsAllBut [.regs, .display] s t

/-- Double draw (R146 (a), (b), which the spec marks as derived): the same sprite bytes drawn again at the same place,
whatever else changed in between, give back the display before the first draw, and VF is then 1 exactly when the first draw turned a pixel on. -/
def Obligations.DrawingTwiceRestoresTheDisplay : Prop :=
  ∀ (x y x' y' : RegIdx) (n : BitVec 4) (s t u : State), faultOf (.drw x y n) s = none →
    exec (.drw x y n) s = .next t → u.vid = t.vid → u.i = s.i →
    (∀ r, r < n.toNat → u.mem.read (s.i.toNat + r) = s.mem.read (s.i.toNat + r)) →
    u.getV x' = s.getV x → u.getV y' = s.getV y →
    ∃ w, exec (.drw x' y' n) u = .next w ∧ w.vid = s.vid ∧
      (w.getV 15 = 1 ↔ ∃ cx cy, cx < 64 ∧ cy < 32 ∧ pixel s.vid cx cy = false ∧ pixel t.vid cx cy = true)

/-! ### Index, BCD and block transfer (43_memory_index.md) -/

/-- R150: Annn loads I with nnn. -/
def Obligations.LoadIndexImmediate : Prop :=
  (∀ (nnn : Imm12) (s : State), ∃ t, exec (.ldI nnn) s = .next t ∧ t.pc = s.pc + 2 ∧
    t.i.toNat = nnn.toNat ∧ KeepsAllBut [.index] s t) ∧
  EncodedAs 0xF000 0xA000 (fun w => .ldI (fieldNnn w))

/-- Fx1E and Fx29 (R151, R152): I + Vx modulo 65536 (the spec's decision D14), no flag; the glyph address 0x050 + 5 Vx
with all eight bits of Vx (D13). -/
def Obligations.IndexArithmetic : Prop :=
  (∀ (x : RegIdx) (s : State), ∃ t, exec (.addI x) s = .next t ∧ t.pc = s.pc + 2 ∧
    t.i.toNat = (s.i.toNat + (s.getV x).toNat) % 65536 ∧ KeepsAllBut [.index] s t) ∧
  (∀ (x : RegIdx) (s : State), ∃ t, exec (.ldF x) s = .next t ∧ t.pc = s.pc + 2 ∧
    t.i.toNat = 0x050 + 5 * (s.getV x).toNat ∧ KeepsAllBut [.index] s t) ∧
  EncodedAs 0xF0FF 0xF01E (fun w => .addI (fieldX w)) ∧
  EncodedAs 0xF0FF 0xF029 (fun w => .ldF (fieldX w))

/-- Fx33 (R153): the three decimal digits of Vx at I, I + 1, I + 2 and no other byte written. The memory is in the
model's canonical form, which every step keeps. -/
def Obligations.BcdStoresThreeDigits : Prop :=
  (∀ (x : RegIdx) (s : State), MemCanonical s → s.i.toNat + 2 ≤ 0xFFF →
    ∃ t, exec (.ldB x) s = .next t ∧ t.pc = s.pc + 2 ∧
      (t.mem.read s.i.toNat).toNat = (s.getV x).toNat / 100 ∧
      (t.mem.read (s.i.toNat + 1)).toNat = (s.getV x).toNat / 10 % 10 ∧
      (t.mem.read (s.i.toNat + 2)).toNat = (s.getV x).toNat % 10 ∧
      MemKeptOutside s.i.toNat 3 s t ∧ KeepsAllBut [.memory] s t) ∧
  EncodedAs 0xF0FF 0xF033 (fun w => .ldB (fieldX w))

/-- Fx55 (R154): V0 to Vx at I to I + x, no other byte written, I and the registers as they were (the spec's decision
D1). -/
def Obligations.BlockStoreWritesRegisters : Prop :=
  (∀ (x : RegIdx) (s : State), MemCanonical s → s.i.toNat + x.val ≤ 0xFFF →
    ∃ t, exec (.storeRegs x) s = .next t ∧ t.pc = s.pc + 2 ∧
      (∀ k : RegIdx, k ≤ x → t.mem.read (s.i.toNat + k.val) = s.getV k) ∧
      MemKeptOutside s.i.toNat (x.val + 1) s t ∧ KeepsAllBut [.memory] s t) ∧
  EncodedAs 0xF0FF 0xF055 (fun w => .storeRegs (fieldX w))

/-- Fx65 (R155): V0 to Vx from I to I + x, the registers above x, I and memory as they were (D1). -/
def Obligations.BlockLoadReadsRegisters : Prop :=
  (∀ (x : RegIdx) (s : State), s.i.toNat + x.val ≤ 0xFFF →
    ∃ t, exec (.loadRegs x) s = .next t ∧ t.pc = s.pc + 2 ∧
      (∀ k : RegIdx, k ≤ x → t.getV k = s.mem.read (s.i.toNat + k.val)) ∧
      (∀ k : RegIdx, x < k → t.getV k = s.getV k) ∧ KeepsAllBut [.regs] s t) ∧
  EncodedAs 0xF0FF 0xF065 (fun w => .loadRegs (fieldX w))

/-- R155's corner case: Fx55 followed by Fx65 with the same x and I restores V0 to Vx, whatever the registers held in
between and whatever else was written to memory. -/
def Obligations.StoreThenLoadRestoresRegisters : Prop :=
  ∀ (x : RegIdx) (s t u : State), MemCanonical s → s.i.toNat + x.val ≤ 0xFFF → exec (.storeRegs x) s = .next t →
    (∀ k : RegIdx, k ≤ x → u.mem.read (s.i.toNat + k.val) = t.mem.read (s.i.toNat + k.val)) → u.i = s.i →
    ∃ w, exec (.loadRegs x) u = .next w ∧ ∀ k : RegIdx, k ≤ x → w.getV k = s.getV k

/-- 20_memory.md rule R53 (which the spec marks as derived): a fetch from where Fx55 stored sees the bytes stored, the
one at the lower address as the high byte of the word (R44). -/
def Obligations.FetchSeesStoredBytes : Prop :=
  ∀ (x k l : RegIdx) (s t u : State), MemCanonical s → s.i.toNat + x.val ≤ 0xFFF → exec (.storeRegs x) s = .next t →
    l.val = k.val + 1 → l ≤ x → u.pc.toNat = s.i.toNat + k.val →
    u.mem.read (s.i.toNat + k.val) = t.mem.read (s.i.toNat + k.val) →
    u.mem.read (s.i.toNat + l.val) = t.mem.read (s.i.toNat + l.val) →
    ∃ w, u.fetch = some w ∧ w.toNat = 256 * (s.getV k).toNat + (s.getV l).toNat

/-! ### Timers and keys (44_timers_keys.md) -/

/-- R170, R171, R172: the timer operations, in step 4 and over the whole cycle with its tick. -/
def Obligations.TimerOperations : Prop :=
  (∀ (x : RegIdx) (s : State), ∃ t, exec (.ldVxDt x) s = .next t ∧ t.pc = s.pc + 2 ∧ t.getV x = s.dt ∧
    RegsButKept [x] s t ∧ KeepsAllBut [.regs] s t) ∧
  (∀ (x : RegIdx) (s : State), ∃ t, exec (.ldDtVx x) s = .next t ∧ t.pc = s.pc + 2 ∧ t.dt = s.getV x ∧
    KeepsAllBut [.delay] s t) ∧
  (∀ (x : RegIdx) (s : State), ∃ t, exec (.ldStVx x) s = .next t ∧ t.pc = s.pc + 2 ∧ t.st = s.getV x ∧
    KeepsAllBut [.sound] s t) ∧
  (∀ (x : RegIdx) (s : State), Running s → s.fetch.map decodeWord = some (.ldVxDt x) →
    ∃ t, step s = .next t ∧ t.getV x = s.dt ∧ t.dt.toNat = s.dt.toNat - 1) ∧
  (∀ (x : RegIdx) (s : State), Running s → s.fetch.map decodeWord = some (.ldDtVx x) →
    ∃ t, step s = .next t ∧ t.dt.toNat = (s.getV x).toNat - 1 ∧ t.st.toNat = s.st.toNat - 1) ∧
  (∀ (x : RegIdx) (s : State), Running s → s.fetch.map decodeWord = some (.ldStVx x) →
    ∃ t, step s = .next t ∧ t.st.toNat = (s.getV x).toNat - 1 ∧ t.dt.toNat = s.dt.toNat - 1) ∧
  EncodedAs 0xF0FF 0xF007 (fun w => .ldVxDt (fieldX w)) ∧
  EncodedAs 0xF0FF 0xF015 (fun w => .ldDtVx (fieldX w)) ∧
  EncodedAs 0xF0FF 0xF018 (fun w => .ldStVx (fieldX w))

/-- R176: every cycle that does not fault ticks both timers after its operation, floor at 0; a cycle that faults and
a halted core do not tick. -/
def Obligations.EveryCompletedCycleTicks : Prop :=
  ∀ s t : State, step s = .next t →
    (Halted t → t.dt = s.dt ∧ t.st = s.st) ∧
    (Running t → ∃ w u, s.fetch = some w ∧ exec (decodeWord w) s = .next u ∧
      t.dt.toNat = u.dt.toNat - 1 ∧ t.st.toNat = u.st.toNat - 1 ∧ t.pc = u.pc ∧ KeepsAllBut [.delay, .sound] u t)

/-- Ex9E and ExA1 (R173, R174): the key is the content of Vx; the two are complements; above 15 they take KEY_RANGE
(the spec's decision D3). -/
def Obligations.KeySkips : Prop :=
  (∀ (x k : RegIdx) (s : State), (s.getV x).toNat = k.val → ∃ t, exec (.skp x) s = .next t ∧
    t.pc = (if s.key.getLsbD k.val = true then s.pc + 4 else s.pc + 2) ∧ KeepsAllBut [] s t) ∧
  (∀ (x k : RegIdx) (s : State), (s.getV x).toNat = k.val → ∃ t, exec (.sknp x) s = .next t ∧
    t.pc = (if s.key.getLsbD k.val = true then s.pc + 2 else s.pc + 4) ∧ KeepsAllBut [] s t) ∧
  (∀ (x : RegIdx) (s : State), 15 < (s.getV x).toNat →
    exec (.skp x) s = .next (s.takeFault .keyRange) ∧ exec (.sknp x) s = .next (s.takeFault .keyRange)) ∧
  EncodedAs 0xF0FF 0xE09E (fun w => .skp (fieldX w)) ∧
  EncodedAs 0xF0FF 0xE0A1 (fun w => .sknp (fieldX w))

/-- Fx0A (R175; the re-decoding form is the spec's decision D17): with keys pressed the lowest goes to Vx and PC moves
on; with none PC stays at this instruction and nothing changes. -/
def Obligations.KeyWait : Prop :=
  (∀ (x k : RegIdx) (s : State), s.key.getLsbD k.val = true → (∀ j : RegIdx, j < k → s.key.getLsbD j.val = false) →
    ∃ t, exec (.ldVxK x) s = .next t ∧ t.pc = s.pc + 2 ∧ (t.getV x).toNat = k.val ∧ RegsButKept [x] s t ∧
      KeepsAllBut [.regs] s t) ∧
  (∀ (x : RegIdx) (s : State), s.key = 0 → ∃ t, exec (.ldVxK x) s = .next t ∧ t.pc = s.pc ∧ KeepsAllBut [] s t) ∧
  EncodedAs 0xF0FF 0xF00A (fun w => .ldVxK (fieldX w))

/-! ### The cycle and the faults -/

/-- The cycle (30_encoding.md rule R64, steps 1 to 5): when the two bytes at PC decode to a well-formed instruction, a
running core's step is `exec` of it, which always answers a next state, and then, unless it faulted, the tick. Beside
it the same in the terms of 20_memory.md rule R44: the word decoded is MEM[PC] * 256 + MEM[PC+1]. -/
def Obligations.StepRunsDecodedInstruction : Prop :=
  (∀ (s : State) (i : Instr), Running s → s.pc.toNat ≤ 0xFFE → i.wf = true →
    decode [s.mem.read s.pc.toNat, s.mem.read (s.pc.toNat + 1)] = .ok (i, []) →
    ∃ u, exec i s = .next u ∧ step s = .next (if u.flt = 0 then u.tick else u)) ∧
  (∀ (s : State) (w : Word), Running s → s.pc.toNat ≤ 0xFFE →
    w.toNat = (s.mem.read s.pc.toNat).toNat * 256 + (s.mem.read (s.pc.toNat + 1)).toNat →
    ∃ u, exec (decodeWord w) s = .next u ∧ step s = .next (if u.flt = 0 then u.tick else u))

/-- Fetch range (20_memory.md rule R46, the spec's decision D3): with PC above 0xFFE a running core takes FETCH_RANGE,
0xFFF included. -/
def Obligations.FetchBeyondMemoryFaults : Prop :=
  ∀ s : State, Running s → 0xFFE < s.pc.toNat → step s = .next (s.takeFault .fetchRange)

/-- A halted core's cycle does nothing at all (60_exceptions.md rule R202, the spec's decision D21). -/
def Obligations.HaltedCoreDoesNothing : Prop :=
  ∀ (s : State) (r : Byte), Halted s → step s = .next s ∧
    hostOp (.cycle r) s = .next (s, .report (.fault s.flt))

/-- The fault conditions and their codes (60_exceptions.md rules R200, R201, the spec's decision D3), for every
operation: where the table lists one, `exec` takes it, FLT is its number in the table and nothing else changes; where it
lists none, `exec` completes with FLT as it was. FETCH_RANGE is raised by no operation. -/
def Obligations.FaultsExactlyAsListed : Prop :=
  ∀ (i : Instr) (s : State), ∃ t, exec i s = .next t ∧
    (∀ c, faultOf i s = some c → t = s.takeFault c) ∧ (faultOf i s = none → t.flt = s.flt) ∧
    (faultOf i s = some .dataRange → t.flt = 2) ∧ (faultOf i s = some .stackOverflow → t.flt = 3) ∧
    (faultOf i s = some .stackUnderflow → t.flt = 4) ∧ (faultOf i s = some .keyRange → t.flt = 5) ∧
    faultOf i s ≠ some .fetchRange

/-- The operations that touch memory take DATA_RANGE when a byte they name lies above 0xFFF, before anything is
written (20_memory.md rules R43, R48, decision D3); Dxyn's check covers clipped rows and never fails for n = 0 (D23). -/
def Obligations.DataBeyondMemoryFaults : Prop :=
  (∀ (x y : RegIdx) (n : BitVec 4) (s : State), n ≠ 0 → 0xFFF < s.i.toNat + n.toNat - 1 →
    exec (.drw x y n) s = .next (s.takeFault .dataRange)) ∧
  (∀ (x : RegIdx) (s : State), 0xFFF < s.i.toNat + 2 → exec (.ldB x) s = .next (s.takeFault .dataRange)) ∧
  (∀ (x : RegIdx) (s : State), 0xFFF < s.i.toNat + x.val →
    exec (.storeRegs x) s = .next (s.takeFault .dataRange) ∧ exec (.loadRegs x) s = .next (s.takeFault .dataRange))

/-- Faults are precise (60_exceptions.md rules R200, R201, decision D3): a step that halts a running core leaves every
piece of state but FLT as it was, and FLT is the table's number of the cause: 1 for a PC beyond memory, else 2 to 5 as
the table lists for the operation fetched. -/
def Obligations.FaultingStepKeepsEverything : Prop :=
  ∀ s t : State, Running s → step s = .next t → Halted t →
    ∃ c : Fault, t = s.takeFault c ∧ t.pc = s.pc ∧ KeepsAllBut [.latch] s t ∧
      ((c = .fetchRange ∧ t.flt = 1 ∧ 0xFFE < s.pc.toNat) ∨
       (∃ w, s.fetch = some w ∧ faultOf (decodeWord w) s = some c ∧
         ((c = .dataRange ∧ t.flt = 2) ∨ (c = .stackOverflow ∧ t.flt = 3) ∨
          (c = .stackUnderflow ∧ t.flt = 4) ∨ (c = .keyRange ∧ t.flt = 5))))

/-- Every step and every host transaction answers a next state: nothing is refused, and no fault ends the model's
run (log 1). -/
def Obligations.EveryStepAnswers : Prop :=
  (∀ s : State, ∃ t, step s = .next t) ∧ ∀ (op : HostOp) (s : State), ∃ t r, hostOp op s = .next (t, r)

/-! ### Invariants and whole-machine rules -/

/-- The invariant holds after reset. -/
def Obligations.ResetSatisfiesTheInvariant : Prop := StateInv State.reset

/-- Every step keeps the invariant, from every state that has it: memory canonical, PC at most 0x10FE (10_state.md
rule R13), return addresses at most 0x1000, FLT one of 0 to 5 (rule R21). -/
def Obligations.StepKeepsTheInvariant : Prop := ∀ s t : State, StateInv s → step s = .next t → StateInv t

/-- Every host transaction keeps the invariant, a cycle with any random byte among them (10_state.md rules R24,
R31). -/
def Obligations.HostTransactionsKeepTheInvariant : Prop :=
  ∀ (op : HostOp) (s t : State) (r : HostReply), StateInv s → hostOp op s = .next (t, r) → StateInv t

/-- Who writes what (the 'written by' column of 10_state.md section 1; the closed-world reading is the spec's
decision D1): I only by Annn, Fx1E, Fx29; VID only by 00E0, Dxyn; MEM only by Fx33, Fx55; the stack only by 00EE, 2nnn;
DT only by Fx15 and ST only by Fx18 (the tick apart); KEY by none; a V register only by the operations that name it. -/
def Obligations.OnlyNamedOperationsWrite : Prop :=
  ∀ (i : Instr) (s t : State), exec i s = .next t →
    (writesIndex i = false → t.i = s.i) ∧ (writesDisplay i = false → t.vid = s.vid) ∧
    (writesMemory i = false → t.mem = s.mem) ∧ (writesStack i = false → t.stack = s.stack ∧ t.sp = s.sp) ∧
    ((∀ x, i ≠ .ldDtVx x) → t.dt = s.dt) ∧ ((∀ x, i ≠ .ldStVx x) → t.st = s.st) ∧ t.key = s.key ∧
    RegsButKept (writtenRegs i) s t

/-- The random byte reaches nothing but Cxkk (10_state.md rule R32, decision D7): at any other word a cycle is the
same for every byte; and the model's step is the cycle with the free value of its draw (log 3). -/
def Obligations.RandomByteReachesOnlyCxkk : Prop :=
  (∀ (r r' : Byte) (s : State), (∀ x kk, s.fetch.map decodeWord ≠ some (.rnd x kk)) → cycle r s = cycle r' s) ∧
  (∀ s : State, step s = cycle (Config.rnd s.draws) s)

/-- The end of a program (70_reset_and_hazards.md rule R233, the spec's decision D15): at a jump to itself every
further cycle changes nothing but the timers, and the program stays ended. -/
def Obligations.EndedProgramStaysEnded : Prop :=
  ∀ s : State, Ended s → ∃ t, step s = .next t ∧ Ended t ∧ t.pc = s.pc ∧ t.dt.toNat = s.dt.toNat - 1 ∧
    t.st.toNat = s.st.toNat - 1 ∧ KeepsAllBut [.delay, .sound] s t

/-- The canonical form is one form: canonical memories that read the same at every address are the same list (the
model's own representation, log 6). -/
def Obligations.CanonicalMemoriesAreEqual : Prop :=
  ∀ m m' : Memory, m.wf = true → m'.wf = true → (∀ a, a < 0x1000 → m.read a = m'.read a) → m = m'

/-! ### Reset and the host (10_state.md sections 5 and 6) -/

/-- The reset values of rule R23. That FLT is 0 is the spec's decision D3; the font bytes are those of the FONT
parameter, whose value is PRESUMED (log 4), and only their place is stated here. -/
def Obligations.ResetValues : Prop :=
  (∀ r, State.reset.getV r = 0) ∧ State.reset.i = 0 ∧ State.reset.pc = 0x200 ∧
  (∀ k : Fin 16, State.reset.stack[k.val] = 0) ∧ State.reset.sp = 0 ∧ State.reset.dt = 0 ∧ State.reset.st = 0 ∧
  State.reset.key = 0 ∧ (∀ k, k < 2048 → vidElem State.reset.vid k = false) ∧ State.reset.flt = 0 ∧
  (∀ a, a < 0x1000 → State.reset.mem.read a =
    if 0x050 ≤ a ∧ a ≤ 0x09F then Config.font.getD (a - 0x050) 0 else 0)

/-- Reset from any state, a halted core and a loaded program included, gives every piece of state its reset value
(rule R25, the spec's decision D25); the model's own count of draws goes on (log 3). -/
def Obligations.HostResetRestoresEverything : Prop :=
  ∀ s : State, ∃ t, hostOp .reset s = .next (t, .done) ∧ t.pc = State.reset.pc ∧ KeepsAllBut [.draws] State.reset t

/-- R26: a LoadROM of at most 3584 bytes copies them verbatim to 0x200 and up, changes nothing else and succeeds. The
memory is in the model's canonical form, which every step and transaction keeps. -/
def Obligations.LoadRomCopiesTheImage : Prop :=
  ∀ (bytes : List Byte) (s : State), MemCanonical s → bytes.length ≤ 3584 →
    ∃ t, hostOp (.loadRom bytes) s = .next (t, .loaded true) ∧
      (∀ (j : Nat) (h : j < bytes.length), t.mem.read (0x200 + j) = bytes[j]) ∧
      MemKeptOutside 0x200 bytes.length s t ∧ t.pc = s.pc ∧ KeepsAllBut [.memory] s t

/-- A longer image is rejected whole (rule R27, the spec's decision D9): failure, no state changed, FLT included. -/
def Obligations.LoadRomRejectsLongImages : Prop :=
  ∀ (bytes : List Byte) (s : State), 3584 < bytes.length → hostOp (.loadRom bytes) s = .next (s, .loaded false)

/-- R28: SetKeys sets all sixteen keys and nothing else; no cycle changes a key, so the next sees the same ones. -/
def Obligations.SetKeysWritesOnlyKeys : Prop :=
  (∀ (k : KeySet) (s : State), ∃ t, hostOp (.setKeys k) s = .next (t, .done) ∧
    (∀ j : RegIdx, t.pressed j = k.getLsbD j.val) ∧ t.pc = s.pc ∧ KeepsAllBut [.keys] s t) ∧
  (∀ s t : State, step s = .next t → t.key = s.key)

/-- R29, R30: ReadVideo gives 2048 words, all ones for a pixel that is on and else 0, row-major from the top left;
ReadSound gives ST, and the tone plays while it is nonzero; neither changes the core. -/
def Obligations.HostReadsShowTheState : Prop :=
  (∀ s : State, hostOp .readVideo s = .next (s, .video (readVideo s)) ∧ (readVideo s).length = 2048 ∧
    ∀ cx cy, cx < 64 → cy < 32 →
      (readVideo s)[cy * 64 + cx]? = some (if pixel s.vid cx cy = true then 0xFFFFFFFF else 0x00000000)) ∧
  (∀ s : State, hostOp .readSound s = .next (s, .sound s.st) ∧ (tone s = true ↔ s.st ≠ 0))

/-- The report of a cycle and ReadFault (rule R33, the spec's decision D3): ok exactly when the cycle leaves the core
running, else the fault with the cause FLT holds. -/
def Obligations.CycleReportsItsFault : Prop :=
  (∀ (r : Byte) (s t : State) (a : HostReply), hostOp (.cycle r) s = .next (t, a) →
    (Running t → a = .report .ok) ∧ (Halted t → a = .report (.fault t.flt))) ∧
  (∀ s : State, hostOp .readFault s = .next (s, .fault s.flt))
end

