-- ==== Sys2Proof/Laws/Memory.lean ====
section
/-! SUPPORT. What the memory operations do: every one keeps the canonical form, and a read after a write gives the
value written at its address and what was there everywhere else. -/

namespace Sys2Proof.Machine

/-- What it says of a list's head and tail to be canonical from `lo` up. -/
theorem Memory.wfFrom_cons (lo k : Nat) (b : Byte) (m : Memory) :
    Memory.wfFrom lo ((k, b) :: m) = true ↔
      lo ≤ k ∧ k < Config.memSize ∧ b ≠ Memory.unlisted k ∧ Memory.wfFrom (k + 1) m = true := by
  simp [Memory.wfFrom, and_assoc]

theorem Memory.wfFrom_mono {lo lo' : Nat} (h : lo' ≤ lo) : ∀ {m : Memory}, Memory.wfFrom lo m = true →
    Memory.wfFrom lo' m = true
  | [], _ => rfl
  | (k, b) :: m, hm => by
    rw [Memory.wfFrom_cons] at hm ⊢
    exact ⟨h.trans hm.1, hm.2⟩

/-- A canonical list holds nothing below its bound. -/
theorem Memory.read_below {a : Nat} : ∀ {lo : Nat} {m : Memory}, Memory.wfFrom lo m = true → a < lo →
    Memory.read m a = Memory.unlisted a
  | _, [], _, _ => rfl
  | lo, (k, b) :: m, hm, ha => by
    rw [Memory.wfFrom_cons] at hm
    have hk : k ≠ a := by omega
    simp only [Memory.read, hk, if_false]
    exact Memory.read_below hm.2.2.2 (by omega)

theorem Memory.put_wfFrom (a : Nat) (b : Byte) (ha : a < Config.memSize) : ∀ {lo : Nat} {m : Memory},
    Memory.wfFrom lo m = true → lo ≤ a → Memory.wfFrom lo (Memory.put m a b) = true
  | lo, [], _, hlo => by
    unfold Memory.put
    split
    · rfl
    · next hb => exact (Memory.wfFrom_cons ..).2 ⟨hlo, ha, hb, rfl⟩
  | lo, (k, c) :: m, hm, hlo => by
    have h := (Memory.wfFrom_cons ..).1 hm
    unfold Memory.put
    split
    · next hk =>
      split
      · exact hm
      · next hb =>
        exact (Memory.wfFrom_cons ..).2 ⟨hlo, ha, hb, (Memory.wfFrom_cons ..).2 ⟨hk, h.2⟩⟩
    · next hk =>
      split
      · next e =>
        subst e
        split
        · exact Memory.wfFrom_mono (by omega) h.2.2.2
        · next hb => exact (Memory.wfFrom_cons ..).2 ⟨hlo, ha, hb, h.2.2.2⟩
      · next e =>
        exact (Memory.wfFrom_cons ..).2
          ⟨h.1, h.2.1, h.2.2.1, Memory.put_wfFrom a b ha h.2.2.2 (by omega)⟩

theorem Memory.read_put (a : Nat) (b : Byte) (a' : Nat) : ∀ {lo : Nat} {m : Memory}, Memory.wfFrom lo m = true →
    Memory.read (Memory.put m a b) a' = if a' = a then b else Memory.read m a'
  | lo, [], _ => by
    unfold Memory.put
    split
    · next hb => by_cases e : a' = a <;> simp [Memory.read, e, hb]
    · by_cases e : a' = a
      · simp [Memory.read, e]
      · have e' : a ≠ a' := fun q => e q.symm
        simp [Memory.read, e, e']
  | lo, (k, c) :: m, hm => by
    have h := (Memory.wfFrom_cons ..).1 hm
    unfold Memory.put
    split
    · next hk =>
      split
      · next hb =>
        by_cases e : a' = a
        · subst e
          rw [if_pos rfl, hb]
          have hk' : k ≠ a' := by omega
          simp only [Memory.read, hk', if_false]
          exact Memory.read_below h.2.2.2 (by omega)
        · rw [if_neg e]
      · by_cases e : a' = a
        · simp [Memory.read, e]
        · have e' : a ≠ a' := fun q => e q.symm
          simp [Memory.read, e, e']
    · next hk =>
      split
      · next e =>
        subst e
        split
        · next hb =>
          by_cases e : a' = a
          · subst e
            rw [if_pos rfl, hb]
            exact Memory.read_below h.2.2.2 (by omega)
          · have e' : a ≠ a' := fun q => e q.symm
            simp [Memory.read, e, e']
        · by_cases e : a' = a
          · simp [Memory.read, e]
          · have e' : a ≠ a' := fun q => e q.symm
            simp [Memory.read, e, e']
      · next e =>
        have ih := Memory.read_put a b a' h.2.2.2
        by_cases ek : k = a'
        · have : a' ≠ a := fun q => e (q.symm.trans ek.symm)
          simp [Memory.read, ek, this]
        · simp [Memory.read, ek, ih]

/-- A write keeps the canonical form (in range or not). -/
theorem Memory.write_wf {m : Memory} (a : Nat) (b : Byte) (h : m.wf = true) : (m.write a b).wf = true := by
  unfold Memory.write
  split
  · next ha => exact Memory.put_wfFrom a b ha h (Nat.zero_le _)
  · exact h

/-- A read after a write (20_memory.md rules R43, R50). -/
theorem Memory.read_write {m : Memory} (a : Nat) (b : Byte) (a' : Nat) (h : m.wf = true) :
    (m.write a b).read a' = if a' = a ∧ a < Config.memSize then b else m.read a' := by
  unfold Memory.write
  split
  · next ha => simp [Memory.read_put a b a' h, ha]
  · next ha => simp [ha]

/-- A store of several bytes keeps the canonical form. -/
theorem Memory.writeBytes_wf : ∀ (bs : List Byte) (a : Nat) {m : Memory}, m.wf = true → (m.writeBytes a bs).wf = true
  | [], _, _, h => h
  | b :: bs, a, _, h => Memory.writeBytes_wf bs (a + 1) (Memory.write_wf a b h)

/-- A read after a store of several bytes, outside them. -/
theorem Memory.read_writeBytes_outside : ∀ (bs : List Byte) (a : Nat) {m : Memory} (a' : Nat), m.wf = true →
    a' < a ∨ a + bs.length ≤ a' → (m.writeBytes a bs).read a' = m.read a'
  | [], _, _, _, _, _ => rfl
  | b :: bs, a, m, a', h, ho => by
    have hl : (b :: bs).length = bs.length + 1 := rfl
    rw [hl] at ho
    unfold Memory.writeBytes
    rw [Memory.read_writeBytes_outside bs (a + 1) a' (Memory.write_wf a b h) (by omega), Memory.read_write a b a' h]
    have : a' ≠ a := by omega
    simp [this]

/-- A read after a store of several bytes, of the k-th of them, when it lies in memory. -/
theorem Memory.read_writeBytes_inside : ∀ (bs : List Byte) (a : Nat) {m : Memory} (k : Nat) (hk : k < bs.length),
    m.wf = true → a + k < Config.memSize → (m.writeBytes a bs).read (a + k) = bs[k]
  | b :: bs, a, m, 0, _, h, ha => by
    unfold Memory.writeBytes
    rw [Memory.read_writeBytes_outside bs (a + 1) (a + 0) (Memory.write_wf a b h) (by omega), Memory.read_write a b _ h]
    simpa using fun hge => absurd ha (by omega)
  | b :: bs, a, m, k + 1, hk, h, ha => by
    unfold Memory.writeBytes
    have hk' : k < bs.length := Nat.lt_of_succ_lt_succ hk
    have := Memory.read_writeBytes_inside bs (a + 1) k hk' (Memory.write_wf a b h) (by omega)
    rw [show a + (k + 1) = a + 1 + k by omega, this]
    rfl

/-- Memory at reset is canonical. -/
theorem State.reset_mem_wf : State.reset.mem.wf = true := rfl

end Sys2Proof.Machine
end

