-- ==== Sys2Proof/Laws/State.lean ====
section
/-! SUPPORT. One lemma per field per update of the state, so that no proof unfolds a record update; then reading a
register after each update. -/

namespace Sys2Proof.Machine

variable (s : State)

/-! ### setMem -/

@[simp] theorem State.setMem_v (m : Memory) : (s.setMem m).v = s.v := rfl
@[simp] theorem State.setMem_i (m : Memory) : (s.setMem m).i = s.i := rfl
@[simp] theorem State.setMem_pc (m : Memory) : (s.setMem m).pc = s.pc := rfl
@[simp] theorem State.setMem_stack (m : Memory) : (s.setMem m).stack = s.stack := rfl
@[simp] theorem State.setMem_sp (m : Memory) : (s.setMem m).sp = s.sp := rfl
@[simp] theorem State.setMem_dt (m : Memory) : (s.setMem m).dt = s.dt := rfl
@[simp] theorem State.setMem_st (m : Memory) : (s.setMem m).st = s.st := rfl
@[simp] theorem State.setMem_key (m : Memory) : (s.setMem m).key = s.key := rfl
@[simp] theorem State.setMem_vid (m : Memory) : (s.setMem m).vid = s.vid := rfl
@[simp] theorem State.setMem_mem (m : Memory) : (s.setMem m).mem = m := rfl
@[simp] theorem State.setMem_flt (m : Memory) : (s.setMem m).flt = s.flt := rfl
@[simp] theorem State.setMem_draws (m : Memory) : (s.setMem m).draws = s.draws := rfl

/-! ### setV -/

@[simp] theorem State.setV_v (x : RegIdx) (b : Byte) : (s.setV x b).v = s.v.set x.val b := rfl
@[simp] theorem State.setV_i (x : RegIdx) (b : Byte) : (s.setV x b).i = s.i := rfl
@[simp] theorem State.setV_pc (x : RegIdx) (b : Byte) : (s.setV x b).pc = s.pc := rfl
@[simp] theorem State.setV_stack (x : RegIdx) (b : Byte) : (s.setV x b).stack = s.stack := rfl
@[simp] theorem State.setV_sp (x : RegIdx) (b : Byte) : (s.setV x b).sp = s.sp := rfl
@[simp] theorem State.setV_dt (x : RegIdx) (b : Byte) : (s.setV x b).dt = s.dt := rfl
@[simp] theorem State.setV_st (x : RegIdx) (b : Byte) : (s.setV x b).st = s.st := rfl
@[simp] theorem State.setV_key (x : RegIdx) (b : Byte) : (s.setV x b).key = s.key := rfl
@[simp] theorem State.setV_vid (x : RegIdx) (b : Byte) : (s.setV x b).vid = s.vid := rfl
@[simp] theorem State.setV_mem (x : RegIdx) (b : Byte) : (s.setV x b).mem = s.mem := rfl
@[simp] theorem State.setV_flt (x : RegIdx) (b : Byte) : (s.setV x b).flt = s.flt := rfl
@[simp] theorem State.setV_draws (x : RegIdx) (b : Byte) : (s.setV x b).draws = s.draws := rfl

/-! ### setFlag -/

@[simp] theorem State.setFlag_v (f : Bool) : (s.setFlag f).v = s.v.set 15 (if f then 1 else 0) := rfl
@[simp] theorem State.setFlag_i (f : Bool) : (s.setFlag f).i = s.i := rfl
@[simp] theorem State.setFlag_pc (f : Bool) : (s.setFlag f).pc = s.pc := rfl
@[simp] theorem State.setFlag_stack (f : Bool) : (s.setFlag f).stack = s.stack := rfl
@[simp] theorem State.setFlag_sp (f : Bool) : (s.setFlag f).sp = s.sp := rfl
@[simp] theorem State.setFlag_dt (f : Bool) : (s.setFlag f).dt = s.dt := rfl
@[simp] theorem State.setFlag_st (f : Bool) : (s.setFlag f).st = s.st := rfl
@[simp] theorem State.setFlag_key (f : Bool) : (s.setFlag f).key = s.key := rfl
@[simp] theorem State.setFlag_vid (f : Bool) : (s.setFlag f).vid = s.vid := rfl
@[simp] theorem State.setFlag_mem (f : Bool) : (s.setFlag f).mem = s.mem := rfl
@[simp] theorem State.setFlag_flt (f : Bool) : (s.setFlag f).flt = s.flt := rfl
@[simp] theorem State.setFlag_draws (f : Bool) : (s.setFlag f).draws = s.draws := rfl

/-! ### setAllV -/

@[simp] theorem State.setAllV_v (v : Vector Byte 16) : (s.setAllV v).v = v := rfl
@[simp] theorem State.setAllV_i (v : Vector Byte 16) : (s.setAllV v).i = s.i := rfl
@[simp] theorem State.setAllV_pc (v : Vector Byte 16) : (s.setAllV v).pc = s.pc := rfl
@[simp] theorem State.setAllV_stack (v : Vector Byte 16) : (s.setAllV v).stack = s.stack := rfl
@[simp] theorem State.setAllV_sp (v : Vector Byte 16) : (s.setAllV v).sp = s.sp := rfl
@[simp] theorem State.setAllV_dt (v : Vector Byte 16) : (s.setAllV v).dt = s.dt := rfl
@[simp] theorem State.setAllV_st (v : Vector Byte 16) : (s.setAllV v).st = s.st := rfl
@[simp] theorem State.setAllV_key (v : Vector Byte 16) : (s.setAllV v).key = s.key := rfl
@[simp] theorem State.setAllV_vid (v : Vector Byte 16) : (s.setAllV v).vid = s.vid := rfl
@[simp] theorem State.setAllV_mem (v : Vector Byte 16) : (s.setAllV v).mem = s.mem := rfl
@[simp] theorem State.setAllV_flt (v : Vector Byte 16) : (s.setAllV v).flt = s.flt := rfl
@[simp] theorem State.setAllV_draws (v : Vector Byte 16) : (s.setAllV v).draws = s.draws := rfl

/-! ### setI -/

@[simp] theorem State.setI_v (a : Word) : (s.setI a).v = s.v := rfl
@[simp] theorem State.setI_i (a : Word) : (s.setI a).i = a := rfl
@[simp] theorem State.setI_pc (a : Word) : (s.setI a).pc = s.pc := rfl
@[simp] theorem State.setI_stack (a : Word) : (s.setI a).stack = s.stack := rfl
@[simp] theorem State.setI_sp (a : Word) : (s.setI a).sp = s.sp := rfl
@[simp] theorem State.setI_dt (a : Word) : (s.setI a).dt = s.dt := rfl
@[simp] theorem State.setI_st (a : Word) : (s.setI a).st = s.st := rfl
@[simp] theorem State.setI_key (a : Word) : (s.setI a).key = s.key := rfl
@[simp] theorem State.setI_vid (a : Word) : (s.setI a).vid = s.vid := rfl
@[simp] theorem State.setI_mem (a : Word) : (s.setI a).mem = s.mem := rfl
@[simp] theorem State.setI_flt (a : Word) : (s.setI a).flt = s.flt := rfl
@[simp] theorem State.setI_draws (a : Word) : (s.setI a).draws = s.draws := rfl

/-! ### setPc -/

@[simp] theorem State.setPc_v (a : Word) : (s.setPc a).v = s.v := rfl
@[simp] theorem State.setPc_i (a : Word) : (s.setPc a).i = s.i := rfl
@[simp] theorem State.setPc_pc (a : Word) : (s.setPc a).pc = a := rfl
@[simp] theorem State.setPc_stack (a : Word) : (s.setPc a).stack = s.stack := rfl
@[simp] theorem State.setPc_sp (a : Word) : (s.setPc a).sp = s.sp := rfl
@[simp] theorem State.setPc_dt (a : Word) : (s.setPc a).dt = s.dt := rfl
@[simp] theorem State.setPc_st (a : Word) : (s.setPc a).st = s.st := rfl
@[simp] theorem State.setPc_key (a : Word) : (s.setPc a).key = s.key := rfl
@[simp] theorem State.setPc_vid (a : Word) : (s.setPc a).vid = s.vid := rfl
@[simp] theorem State.setPc_mem (a : Word) : (s.setPc a).mem = s.mem := rfl
@[simp] theorem State.setPc_flt (a : Word) : (s.setPc a).flt = s.flt := rfl
@[simp] theorem State.setPc_draws (a : Word) : (s.setPc a).draws = s.draws := rfl

/-! ### advance -/

@[simp] theorem State.advance_v : s.advance.v = s.v := rfl
@[simp] theorem State.advance_i : s.advance.i = s.i := rfl
@[simp] theorem State.advance_pc : s.advance.pc = s.pc + 2 := rfl
@[simp] theorem State.advance_stack : s.advance.stack = s.stack := rfl
@[simp] theorem State.advance_sp : s.advance.sp = s.sp := rfl
@[simp] theorem State.advance_dt : s.advance.dt = s.dt := rfl
@[simp] theorem State.advance_st : s.advance.st = s.st := rfl
@[simp] theorem State.advance_key : s.advance.key = s.key := rfl
@[simp] theorem State.advance_vid : s.advance.vid = s.vid := rfl
@[simp] theorem State.advance_mem : s.advance.mem = s.mem := rfl
@[simp] theorem State.advance_flt : s.advance.flt = s.flt := rfl
@[simp] theorem State.advance_draws : s.advance.draws = s.draws := rfl

/-! ### setDt -/

@[simp] theorem State.setDt_v (b : Byte) : (s.setDt b).v = s.v := rfl
@[simp] theorem State.setDt_i (b : Byte) : (s.setDt b).i = s.i := rfl
@[simp] theorem State.setDt_pc (b : Byte) : (s.setDt b).pc = s.pc := rfl
@[simp] theorem State.setDt_stack (b : Byte) : (s.setDt b).stack = s.stack := rfl
@[simp] theorem State.setDt_sp (b : Byte) : (s.setDt b).sp = s.sp := rfl
@[simp] theorem State.setDt_dt (b : Byte) : (s.setDt b).dt = b := rfl
@[simp] theorem State.setDt_st (b : Byte) : (s.setDt b).st = s.st := rfl
@[simp] theorem State.setDt_key (b : Byte) : (s.setDt b).key = s.key := rfl
@[simp] theorem State.setDt_vid (b : Byte) : (s.setDt b).vid = s.vid := rfl
@[simp] theorem State.setDt_mem (b : Byte) : (s.setDt b).mem = s.mem := rfl
@[simp] theorem State.setDt_flt (b : Byte) : (s.setDt b).flt = s.flt := rfl
@[simp] theorem State.setDt_draws (b : Byte) : (s.setDt b).draws = s.draws := rfl

/-! ### setSt -/

@[simp] theorem State.setSt_v (b : Byte) : (s.setSt b).v = s.v := rfl
@[simp] theorem State.setSt_i (b : Byte) : (s.setSt b).i = s.i := rfl
@[simp] theorem State.setSt_pc (b : Byte) : (s.setSt b).pc = s.pc := rfl
@[simp] theorem State.setSt_stack (b : Byte) : (s.setSt b).stack = s.stack := rfl
@[simp] theorem State.setSt_sp (b : Byte) : (s.setSt b).sp = s.sp := rfl
@[simp] theorem State.setSt_dt (b : Byte) : (s.setSt b).dt = s.dt := rfl
@[simp] theorem State.setSt_st (b : Byte) : (s.setSt b).st = b := rfl
@[simp] theorem State.setSt_key (b : Byte) : (s.setSt b).key = s.key := rfl
@[simp] theorem State.setSt_vid (b : Byte) : (s.setSt b).vid = s.vid := rfl
@[simp] theorem State.setSt_mem (b : Byte) : (s.setSt b).mem = s.mem := rfl
@[simp] theorem State.setSt_flt (b : Byte) : (s.setSt b).flt = s.flt := rfl
@[simp] theorem State.setSt_draws (b : Byte) : (s.setSt b).draws = s.draws := rfl

/-! ### setVid -/

@[simp] theorem State.setVid_v (p : Screen) : (s.setVid p).v = s.v := rfl
@[simp] theorem State.setVid_i (p : Screen) : (s.setVid p).i = s.i := rfl
@[simp] theorem State.setVid_pc (p : Screen) : (s.setVid p).pc = s.pc := rfl
@[simp] theorem State.setVid_stack (p : Screen) : (s.setVid p).stack = s.stack := rfl
@[simp] theorem State.setVid_sp (p : Screen) : (s.setVid p).sp = s.sp := rfl
@[simp] theorem State.setVid_dt (p : Screen) : (s.setVid p).dt = s.dt := rfl
@[simp] theorem State.setVid_st (p : Screen) : (s.setVid p).st = s.st := rfl
@[simp] theorem State.setVid_key (p : Screen) : (s.setVid p).key = s.key := rfl
@[simp] theorem State.setVid_vid (p : Screen) : (s.setVid p).vid = p := rfl
@[simp] theorem State.setVid_mem (p : Screen) : (s.setVid p).mem = s.mem := rfl
@[simp] theorem State.setVid_flt (p : Screen) : (s.setVid p).flt = s.flt := rfl
@[simp] theorem State.setVid_draws (p : Screen) : (s.setVid p).draws = s.draws := rfl

/-! ### setKey -/

@[simp] theorem State.setKey_v (k : KeySet) : (s.setKey k).v = s.v := rfl
@[simp] theorem State.setKey_i (k : KeySet) : (s.setKey k).i = s.i := rfl
@[simp] theorem State.setKey_pc (k : KeySet) : (s.setKey k).pc = s.pc := rfl
@[simp] theorem State.setKey_stack (k : KeySet) : (s.setKey k).stack = s.stack := rfl
@[simp] theorem State.setKey_sp (k : KeySet) : (s.setKey k).sp = s.sp := rfl
@[simp] theorem State.setKey_dt (k : KeySet) : (s.setKey k).dt = s.dt := rfl
@[simp] theorem State.setKey_st (k : KeySet) : (s.setKey k).st = s.st := rfl
@[simp] theorem State.setKey_key (k : KeySet) : (s.setKey k).key = k := rfl
@[simp] theorem State.setKey_vid (k : KeySet) : (s.setKey k).vid = s.vid := rfl
@[simp] theorem State.setKey_mem (k : KeySet) : (s.setKey k).mem = s.mem := rfl
@[simp] theorem State.setKey_flt (k : KeySet) : (s.setKey k).flt = s.flt := rfl
@[simp] theorem State.setKey_draws (k : KeySet) : (s.setKey k).draws = s.draws := rfl

/-! ### drawn -/

@[simp] theorem State.drawn_v : s.drawn.v = s.v := rfl
@[simp] theorem State.drawn_i : s.drawn.i = s.i := rfl
@[simp] theorem State.drawn_pc : s.drawn.pc = s.pc := rfl
@[simp] theorem State.drawn_stack : s.drawn.stack = s.stack := rfl
@[simp] theorem State.drawn_sp : s.drawn.sp = s.sp := rfl
@[simp] theorem State.drawn_dt : s.drawn.dt = s.dt := rfl
@[simp] theorem State.drawn_st : s.drawn.st = s.st := rfl
@[simp] theorem State.drawn_key : s.drawn.key = s.key := rfl
@[simp] theorem State.drawn_vid : s.drawn.vid = s.vid := rfl
@[simp] theorem State.drawn_mem : s.drawn.mem = s.mem := rfl
@[simp] theorem State.drawn_flt : s.drawn.flt = s.flt := rfl
@[simp] theorem State.drawn_draws : s.drawn.draws = s.draws + 1 := rfl

/-! ### tick -/

@[simp] theorem State.tick_v : s.tick.v = s.v := rfl
@[simp] theorem State.tick_i : s.tick.i = s.i := rfl
@[simp] theorem State.tick_pc : s.tick.pc = s.pc := rfl
@[simp] theorem State.tick_stack : s.tick.stack = s.stack := rfl
@[simp] theorem State.tick_sp : s.tick.sp = s.sp := rfl
@[simp] theorem State.tick_dt : s.tick.dt = tickTimer s.dt := rfl
@[simp] theorem State.tick_st : s.tick.st = tickTimer s.st := rfl
@[simp] theorem State.tick_key : s.tick.key = s.key := rfl
@[simp] theorem State.tick_vid : s.tick.vid = s.vid := rfl
@[simp] theorem State.tick_mem : s.tick.mem = s.mem := rfl
@[simp] theorem State.tick_flt : s.tick.flt = s.flt := rfl
@[simp] theorem State.tick_draws : s.tick.draws = s.draws := rfl

/-! ### takeFault -/

@[simp] theorem State.takeFault_v (c : Fault) : (s.takeFault c).v = s.v := rfl
@[simp] theorem State.takeFault_i (c : Fault) : (s.takeFault c).i = s.i := rfl
@[simp] theorem State.takeFault_pc (c : Fault) : (s.takeFault c).pc = s.pc := rfl
@[simp] theorem State.takeFault_stack (c : Fault) : (s.takeFault c).stack = s.stack := rfl
@[simp] theorem State.takeFault_sp (c : Fault) : (s.takeFault c).sp = s.sp := rfl
@[simp] theorem State.takeFault_dt (c : Fault) : (s.takeFault c).dt = s.dt := rfl
@[simp] theorem State.takeFault_st (c : Fault) : (s.takeFault c).st = s.st := rfl
@[simp] theorem State.takeFault_key (c : Fault) : (s.takeFault c).key = s.key := rfl
@[simp] theorem State.takeFault_vid (c : Fault) : (s.takeFault c).vid = s.vid := rfl
@[simp] theorem State.takeFault_mem (c : Fault) : (s.takeFault c).mem = s.mem := rfl
@[simp] theorem State.takeFault_flt (c : Fault) : (s.takeFault c).flt = c.code := rfl
@[simp] theorem State.takeFault_draws (c : Fault) : (s.takeFault c).draws = s.draws := rfl

/-! ### setResultFlag -/

@[simp] theorem State.setResultFlag_v (x : RegIdx) (r : Byte) (f : Bool) : (s.setResultFlag x r f).v = (s.v.set x.val r).set 15 (if f then 1 else 0) := rfl
@[simp] theorem State.setResultFlag_i (x : RegIdx) (r : Byte) (f : Bool) : (s.setResultFlag x r f).i = s.i := rfl
@[simp] theorem State.setResultFlag_pc (x : RegIdx) (r : Byte) (f : Bool) : (s.setResultFlag x r f).pc = s.pc := rfl
@[simp] theorem State.setResultFlag_stack (x : RegIdx) (r : Byte) (f : Bool) : (s.setResultFlag x r f).stack = s.stack := rfl
@[simp] theorem State.setResultFlag_sp (x : RegIdx) (r : Byte) (f : Bool) : (s.setResultFlag x r f).sp = s.sp := rfl
@[simp] theorem State.setResultFlag_dt (x : RegIdx) (r : Byte) (f : Bool) : (s.setResultFlag x r f).dt = s.dt := rfl
@[simp] theorem State.setResultFlag_st (x : RegIdx) (r : Byte) (f : Bool) : (s.setResultFlag x r f).st = s.st := rfl
@[simp] theorem State.setResultFlag_key (x : RegIdx) (r : Byte) (f : Bool) : (s.setResultFlag x r f).key = s.key := rfl
@[simp] theorem State.setResultFlag_vid (x : RegIdx) (r : Byte) (f : Bool) : (s.setResultFlag x r f).vid = s.vid := rfl
@[simp] theorem State.setResultFlag_mem (x : RegIdx) (r : Byte) (f : Bool) : (s.setResultFlag x r f).mem = s.mem := rfl
@[simp] theorem State.setResultFlag_flt (x : RegIdx) (r : Byte) (f : Bool) : (s.setResultFlag x r f).flt = s.flt := rfl
@[simp] theorem State.setResultFlag_draws (x : RegIdx) (r : Byte) (f : Bool) : (s.setResultFlag x r f).draws = s.draws := rfl

/-! ### skipIf and endCycle: one field depends on the condition -/

@[simp] theorem State.skipIf_v (c : Bool) : (s.skipIf c).v = s.v := by cases c <;> rfl
@[simp] theorem State.skipIf_i (c : Bool) : (s.skipIf c).i = s.i := by cases c <;> rfl
@[simp] theorem State.skipIf_pc (c : Bool) : (s.skipIf c).pc = if c then s.pc + 2 else s.pc := by cases c <;> rfl
@[simp] theorem State.skipIf_stack (c : Bool) : (s.skipIf c).stack = s.stack := by cases c <;> rfl
@[simp] theorem State.skipIf_sp (c : Bool) : (s.skipIf c).sp = s.sp := by cases c <;> rfl
@[simp] theorem State.skipIf_dt (c : Bool) : (s.skipIf c).dt = s.dt := by cases c <;> rfl
@[simp] theorem State.skipIf_st (c : Bool) : (s.skipIf c).st = s.st := by cases c <;> rfl
@[simp] theorem State.skipIf_key (c : Bool) : (s.skipIf c).key = s.key := by cases c <;> rfl
@[simp] theorem State.skipIf_vid (c : Bool) : (s.skipIf c).vid = s.vid := by cases c <;> rfl
@[simp] theorem State.skipIf_mem (c : Bool) : (s.skipIf c).mem = s.mem := by cases c <;> rfl
@[simp] theorem State.skipIf_flt (c : Bool) : (s.skipIf c).flt = s.flt := by cases c <;> rfl
@[simp] theorem State.skipIf_draws (c : Bool) : (s.skipIf c).draws = s.draws := by cases c <;> rfl

@[simp] theorem State.endCycle_v : s.endCycle.v = s.v := by unfold State.endCycle; split <;> rfl
@[simp] theorem State.endCycle_i : s.endCycle.i = s.i := by unfold State.endCycle; split <;> rfl
@[simp] theorem State.endCycle_pc : s.endCycle.pc = s.pc := by unfold State.endCycle; split <;> rfl
@[simp] theorem State.endCycle_stack : s.endCycle.stack = s.stack := by unfold State.endCycle; split <;> rfl
@[simp] theorem State.endCycle_sp : s.endCycle.sp = s.sp := by unfold State.endCycle; split <;> rfl
@[simp] theorem State.endCycle_dt : s.endCycle.dt = if s.flt = 0 then tickTimer s.dt else s.dt := by
  unfold State.endCycle; split <;> rfl
@[simp] theorem State.endCycle_st : s.endCycle.st = if s.flt = 0 then tickTimer s.st else s.st := by
  unfold State.endCycle; split <;> rfl
@[simp] theorem State.endCycle_key : s.endCycle.key = s.key := by unfold State.endCycle; split <;> rfl
@[simp] theorem State.endCycle_vid : s.endCycle.vid = s.vid := by unfold State.endCycle; split <;> rfl
@[simp] theorem State.endCycle_mem : s.endCycle.mem = s.mem := by unfold State.endCycle; split <;> rfl
@[simp] theorem State.endCycle_flt : s.endCycle.flt = s.flt := by unfold State.endCycle; split <;> rfl
@[simp] theorem State.endCycle_draws : s.endCycle.draws = s.draws := by unfold State.endCycle; split <;> rfl

/-! ### Reading a register -/

theorem State.getV_setV (x r : RegIdx) (b : Byte) : (s.setV x b).getV r = if r = x then b else s.getV r := by
  by_cases h : r = x
  · subst h; simp [State.getV]
  · have hv : x.val ≠ r.val := fun e => h (Fin.ext e.symm)
    simp [State.getV, h, Vector.getElem_set_ne, hv]

@[simp] theorem State.getV_setV_same (x : RegIdx) (b : Byte) : (s.setV x b).getV x = b := by
  simp [State.getV_setV]

theorem State.getV_setV_ne (x r : RegIdx) (b : Byte) (h : r ≠ x) : (s.setV x b).getV r = s.getV r := by
  simp [State.getV_setV, h]

@[simp] theorem State.getV_setFlag_vf (f : Bool) : (s.setFlag f).getV 15 = if f then 1 else 0 := by
  simp [State.setFlag]

theorem State.getV_setFlag_ne (f : Bool) (r : RegIdx) (h : r ≠ 15) : (s.setFlag f).getV r = s.getV r :=
  State.getV_setV_ne s 15 r _ h

@[simp] theorem State.getV_setMem (m : Memory) (r : RegIdx) : (s.setMem m).getV r = s.getV r := rfl
@[simp] theorem State.getV_setI (a : Word) (r : RegIdx) : (s.setI a).getV r = s.getV r := rfl
@[simp] theorem State.getV_setPc (a : Word) (r : RegIdx) : (s.setPc a).getV r = s.getV r := rfl
@[simp] theorem State.getV_advance (r : RegIdx) : s.advance.getV r = s.getV r := rfl
@[simp] theorem State.getV_setDt (b : Byte) (r : RegIdx) : (s.setDt b).getV r = s.getV r := rfl
@[simp] theorem State.getV_setSt (b : Byte) (r : RegIdx) : (s.setSt b).getV r = s.getV r := rfl
@[simp] theorem State.getV_setVid (p : Screen) (r : RegIdx) : (s.setVid p).getV r = s.getV r := rfl
@[simp] theorem State.getV_setKey (k : KeySet) (r : RegIdx) : (s.setKey k).getV r = s.getV r := rfl
@[simp] theorem State.getV_drawn (r : RegIdx) : s.drawn.getV r = s.getV r := rfl
@[simp] theorem State.getV_tick (r : RegIdx) : s.tick.getV r = s.getV r := rfl
@[simp] theorem State.getV_takeFault (c : Fault) (r : RegIdx) : (s.takeFault c).getV r = s.getV r := rfl
@[simp] theorem State.getV_skipIf (c : Bool) (r : RegIdx) : (s.skipIf c).getV r = s.getV r := by cases c <;> rfl
@[simp] theorem State.getV_endCycle (r : RegIdx) : s.endCycle.getV r = s.getV r := by simp [State.getV]

/-- The result-then-flag write of 30_encoding.md rule R77: VF holds the flag, whatever x is. -/
theorem State.getV_setResultFlag (x r : RegIdx) (b : Byte) (f : Bool) :
    (s.setResultFlag x b f).getV r = if r = 15 then (if f then 1 else 0) else if r = x then b else s.getV r := by
  by_cases h : r = 15
  · subst h; simp [State.setResultFlag]
  · simp [State.setResultFlag, State.getV_setFlag_ne _ _ _ h, h, State.getV_setV]

end Sys2Proof.Machine
end

