-- ==== Sys2Proof/Laws/Ops.lean ====
section
/-! SUPPORT. For each shared operation, once, everything it can do. -/

namespace Sys2Proof.Machine

/-- The range check: the bytes `base .. base + n - 1` all lie at 0xFFF or below (20_memory.md rule R48). -/
theorem inRange_iff (base n : Nat) : inRange base n = true ↔ n = 0 ∨ base + n ≤ Config.memSize := by
  unfold inRange Config.memSize
  rw [decide_eq_true_iff]
  omega

/-- A push answers exactly with fewer than sixteen entries in use: the entry at SP and SP + 1, nothing else
(10_state.md rule R14). -/
theorem State.push_eq (s : State) (a : Word) :
    s.push a = if h : s.sp.val < 16 then
      some { s with stack := s.stack.set s.sp.val a, sp := ⟨s.sp.val + 1, by omega⟩ } else none := rfl

/-- A push that answers: what it leaves. -/
theorem State.push_some {s t : State} {a : Word} (h : s.push a = some t) :
    ∃ hs : s.sp.val < 16, t.stack = s.stack.set s.sp.val a ∧ t.sp.val = s.sp.val + 1 ∧
      t = { s with stack := t.stack, sp := t.sp } := by
  unfold State.push at h
  split at h
  · next hs => cases h; exact ⟨hs, rfl, rfl, rfl⟩
  · cases h

/-- A push refuses exactly with all sixteen entries in use. -/
theorem State.push_none {s : State} {a : Word} : s.push a = none ↔ s.sp.val = 16 := by
  unfold State.push
  split
  · next h => simp; omega
  · next h => simp; omega

/-- A pop that answers: SP - 1 and the entry there, which stays (10_state.md rule R14). -/
theorem State.pop_some {s t : State} {a : Word} (h : s.pop = some (a, t)) :
    ∃ hs : 0 < s.sp.val, a = s.stack[s.sp.val - 1] ∧ t.sp.val = s.sp.val - 1 ∧ t = { s with sp := t.sp } := by
  unfold State.pop at h
  split at h
  · next hs => cases h; exact ⟨hs, rfl, rfl, rfl⟩
  · cases h

/-- A pop refuses exactly with an empty stack. -/
theorem State.pop_none {s : State} : s.pop = none ↔ s.sp.val = 0 := by
  unfold State.pop
  split
  · next h => simp; omega
  · next h => simp; omega

/-- Which key a byte names (44_timers_keys.md rule R178). -/
theorem keyOf_some {b : Byte} {k : RegIdx} : keyOf b = some k ↔ b.toNat = k.val := by
  unfold keyOf
  split
  · next h => simp [Fin.ext_iff]
  · next h => simp; omega

theorem keyOf_none {b : Byte} : keyOf b = none ↔ 15 < b.toNat := by
  unfold keyOf
  split
  · next h => simp; omega
  · next h => simp; omega

/-- Every key number stands in the scan order. -/
theorem mem_keyOrder (k : RegIdx) : k ∈ keyOrder := by revert k; decide

/-- The scan order is ascending (44_timers_keys.md rule R175). -/
theorem keyOrder_ascending : keyOrder.Pairwise (· < ·) := by decide

/-- No key is pressed exactly when the scan finds none. -/
theorem State.lowestKey_none {s : State} : s.lowestKey = none ↔ ∀ k, s.pressed k = false := by
  simp [State.lowestKey, List.find?_eq_none, mem_keyOrder]

/-- What the scan finds is pressed, and nothing below it is. -/
theorem State.lowestKey_some {s : State} {k : RegIdx} (h : s.lowestKey = some k) :
    s.pressed k = true ∧ ∀ j, j < k → s.pressed j = false := by
  obtain ⟨hk, as, bs, hsplit, has⟩ := List.find?_eq_some_iff_append.1 h
  refine ⟨hk, fun j hj => ?_⟩
  have hmem : j ∈ as ++ k :: bs := hsplit ▸ mem_keyOrder j
  have hasc : (as ++ k :: bs).Pairwise (· < ·) := hsplit ▸ keyOrder_ascending
  rcases List.mem_append.1 hmem with hj' | hj'
  · simpa using has j hj'
  · rcases List.mem_cons.1 hj' with rfl | hb
    · exact absurd hj (lt_irrefl _)
    · have := (List.pairwise_cons.1 (List.pairwise_append.1 hasc).2.1).1 j hb
      exact absurd hj (lt_asymm this)

/-- The word of two bytes as a number: the one at the lower address counts 256 (20_memory.md rule R44). -/
theorem wordOfBytes_toNat (hi lo : Byte) : (wordOfBytes hi lo).toNat = 256 * hi.toNat + lo.toNat := by
  unfold wordOfBytes
  rw [BitVec.toNat_append, ← Nat.shiftLeft_add_eq_or_of_lt lo.isLt, Nat.shiftLeft_eq]
  omega

/-- A fetch answers exactly at PC up to 0xFFE, with the two bytes there, the lower address first (20_memory.md rules
R44, R46). -/
theorem State.fetch_some {s : State} {w : Word} :
    s.fetch = some w ↔ s.pc.toNat ≤ 0xFFE ∧ w = wordOfBytes (s.mem.read s.pc.toNat) (s.mem.read (s.pc.toNat + 1)) := by
  unfold State.fetch
  split
  · next h => simp [h, eq_comm]
  · next h => simp [h]

theorem State.fetch_none {s : State} : s.fetch = none ↔ 0xFFE < s.pc.toNat := by
  unfold State.fetch
  split
  · next h => simp; omega
  · next h => simp; omega

/-- No fault has code 0, so a fault entry always halts the core. -/
theorem Fault.code_ne_zero (c : Fault) : c.code ≠ 0 := by cases c <;> decide

/-- The codes are 1 to 5 (60_exceptions.md rule R200). -/
theorem Fault.code_le (c : Fault) : c.code.toNat ≤ 5 := by cases c <;> decide

/-- A timer's tick: down by one, floor at 0 (44_timers_keys.md rule R176). -/
theorem tickTimer_toNat (t : Byte) : (tickTimer t).toNat = t.toNat - 1 := by
  unfold tickTimer
  split
  · next h => simp [h]
  · next h => have := BitVec.toNat_ne_iff_ne.2 h; bv_omega

/-- A cycle of a halted core. -/
theorem runCycle_halted {run : Instr → State → Host.Outcome State Fault Refusal} {s : State} (h : s.flt ≠ 0) :
    runCycle run s = .next s := by
  unfold runCycle
  rw [if_pos h]

/-- A cycle that cannot fetch. -/
theorem runCycle_noFetch {run : Instr → State → Host.Outcome State Fault Refusal} {s : State} (h : s.flt = 0)
    (hf : s.fetch = none) : runCycle run s = .next (s.takeFault .fetchRange) := by simp [runCycle, h, hf]

/-- What a cycle that answers a next state can be: a halted core's, a fetch fault, or the operation's with the tick
(30_encoding.md rule R64). -/
theorem runCycle_next {run : Instr → State → Host.Outcome State Fault Refusal} {s t : State}
    (h : runCycle run s = .next t) :
    (s.flt ≠ 0 ∧ t = s) ∨ (s.flt = 0 ∧ s.fetch = none ∧ t = s.takeFault .fetchRange) ∨
      (s.flt = 0 ∧ ∃ w u, s.fetch = some w ∧ run (decodeWord w) s = .next u ∧ t = u.endCycle) := by
  unfold runCycle at h
  split at h
  · next hf => cases h; exact .inl ⟨hf, rfl⟩
  · next hf =>
    have hf : s.flt = 0 := not_not.1 hf
    split at h
    · next hn => cases h; exact .inr (.inl ⟨hf, hn, rfl⟩)
    · next w hw =>
      split at h
      · next u hu => cases h; exact .inr (.inr ⟨hf, w, u, hw, hu, rfl⟩)
      · cases h
      · cases h

/-- Toggling a pixel of the grid changes that pixel and no other (42_display.md rule R145). -/
theorem pixel_togglePixel (p : Screen) (px py cx cy : Nat) (hp : px < 64) (hy : py < 32) :
    pixel (togglePixel p px py) cx cy = (pixel p cx cy ^^ decide (cx = px ∧ cy = py)) := by
  unfold pixel togglePixel
  by_cases hcy : cy < 32
  · by_cases e : cy = py
    · subst e
      simp [hcy, BitVec.getLsbD_twoPow, hp, eq_comm]
    · have e' : py ≠ cy := fun q => e q.symm
      simp [hcy, hy, Vector.getElem_set_ne, e, e']
  · have e : cy ≠ py := by omega
    simp [hcy, e]

/-- The registers of a block load: those below `n` are read, the others stay (43_memory_index.md rule R155). -/
theorem getElem_loadBlock (m : Memory) (base : Nat) : ∀ (n : Nat) (v : Vector Byte 16) (k : Nat) (hk : k < 16),
    (loadBlock m base n v)[k] = if k < n then m.read (base + k) else v[k]
  | 0, v, k, hk => by simp [loadBlock]
  | n + 1, v, k, hk => by
    have ih := getElem_loadBlock m base n v k hk
    unfold loadBlock
    rw [Vector.getElem_setIfInBounds]
    by_cases e : n = k
    · subst e; simp
    · rw [if_neg e, ih]
      by_cases hn : k < n
      · rw [if_pos hn, if_pos (by omega)]
      · rw [if_neg hn, if_neg (by omega)]

/-- The bytes of a block store are V0 up to Vx (43_memory_index.md rule R154). -/
theorem blockBytes_length (s : State) (x : RegIdx) : (blockBytes s x).length = x.val + 1 := by
  simp [blockBytes]

theorem getElem_blockBytes (s : State) (x k : RegIdx) (h : k.val < (blockBytes s x).length) :
    (blockBytes s x)[k.val] = s.getV k := by
  simp [blockBytes, State.getV]

end Sys2Proof.Machine
end

