-- ==== Sys2Proof/Laws/Exec.lean ====
section
/-! SUPPORT. The meanings that have more than one way to end, each way once: under which condition, and the state it
ends in. The meanings not here are one `.next` whatever the state, so `rfl` gives their equation. -/

namespace Sys2Proof.Machine

/-- Dxyn, all n bytes in memory. -/
theorem exec_drw_ok {x y : RegIdx} {n : BitVec 4} {s : State} (h : n = 0 ∨ s.i.toNat + n.toNat - 1 ≤ 0xFFF) :
    exec (.drw x y n) s = .next ((s.advance.setVid
      (drawSprite s.mem s.i.toNat n.toNat (s.getV x) (s.getV y) s.vid).1).setFlag
      (drawSprite s.mem s.i.toNat n.toNat (s.getV x) (s.getV y) s.vid).2) := by
  have hr : inRange s.dataBase n.toNat = true := by
    rcases h with rfl | h
    · rfl
    · exact decide_eq_true (.inr h)
  exact if_pos hr

/-- Dxyn, a byte beyond memory. -/
theorem exec_drw_fault {x y : RegIdx} {n : BitVec 4} {s : State} (h0 : n ≠ 0) (h : 0xFFF < s.i.toNat + n.toNat - 1) :
    exec (.drw x y n) s = .next (s.takeFault .dataRange) := by
  have hn : n.toNat ≠ 0 := fun e => h0 (BitVec.eq_of_toNat_eq (by simpa using e))
  have hr : ¬ inRange s.dataBase n.toNat = true := by
    unfold inRange State.dataBase
    rw [decide_eq_true_iff]
    omega
  exact if_neg hr

/-- Fx33, its three bytes in memory. -/
theorem exec_ldB_ok {x : RegIdx} {s : State} (h : s.i.toNat + 2 ≤ 0xFFF) :
    exec (.ldB x) s = .next (s.advance.setMem (s.mem.writeBytes s.i.toNat (bcdBytes (s.getV x)))) :=
  if_pos (decide_eq_true (.inr (by show s.i.toNat + 3 - 1 ≤ 0xFFF; omega)))

/-- Fx33, a byte beyond memory. -/
theorem exec_ldB_fault {x : RegIdx} {s : State} (h : 0xFFF < s.i.toNat + 2) :
    exec (.ldB x) s = .next (s.takeFault .dataRange) := by
  have hr : ¬ inRange s.dataBase 3 = true := by
    unfold inRange State.dataBase
    rw [decide_eq_true_iff]
    omega
  exact if_neg hr

/-- The check of Fx55 and Fx65 is on I + x. -/
theorem inRange_block {s : State} {x : RegIdx} : inRange s.dataBase (x.val + 1) = true ↔ s.i.toNat + x.val ≤ 0xFFF := by
  unfold inRange State.dataBase
  rw [decide_eq_true_iff]
  omega

/-- Fx55, its x + 1 bytes in memory. -/
theorem exec_storeRegs_ok {x : RegIdx} {s : State} (h : s.i.toNat + x.val ≤ 0xFFF) :
    exec (.storeRegs x) s = .next (s.advance.setMem (s.mem.writeBytes s.i.toNat (blockBytes s x))) :=
  if_pos (inRange_block.2 h)

/-- Fx55, a byte beyond memory. -/
theorem exec_storeRegs_fault {x : RegIdx} {s : State} (h : 0xFFF < s.i.toNat + x.val) :
    exec (.storeRegs x) s = .next (s.takeFault .dataRange) :=
  if_neg (fun e => absurd (inRange_block.1 e) (by omega))

/-- Fx65, its x + 1 bytes in memory. -/
theorem exec_loadRegs_ok {x : RegIdx} {s : State} (h : s.i.toNat + x.val ≤ 0xFFF) :
    exec (.loadRegs x) s = .next (s.advance.setAllV (loadBlock s.mem s.i.toNat (x.val + 1) s.v)) :=
  if_pos (inRange_block.2 h)

/-- Fx65, a byte beyond memory. -/
theorem exec_loadRegs_fault {x : RegIdx} {s : State} (h : 0xFFF < s.i.toNat + x.val) :
    exec (.loadRegs x) s = .next (s.takeFault .dataRange) :=
  if_neg (fun e => absurd (inRange_block.1 e) (by omega))

/-- 00EE with an entry in use. -/
theorem exec_ret_ok {s : State} (h : 0 < s.sp.val) :
    exec .ret s = .next { s with pc := s.stack[s.sp.val - 1], sp := ⟨s.sp.val - 1, by omega⟩ } := by
  show execRet s = _
  have hp : s.advance.pop =
      some (s.stack[s.sp.val - 1], { s.advance with sp := ⟨s.sp.val - 1, by omega⟩ }) := dif_pos h
  unfold execRet
  rw [hp]
  rfl

/-- 00EE with an empty stack. -/
theorem exec_ret_fault {s : State} (h : s.sp.val = 0) : exec .ret s = .next (s.takeFault .stackUnderflow) := by
  show execRet s = _
  have hp : s.advance.pop = none := State.pop_none.2 h
  unfold execRet
  rw [hp]

/-- 2nnn with a free entry. -/
theorem exec_call_ok {nnn : Imm12} {s : State} (h : s.sp.val < 16) :
    exec (.call nnn) s = .next { s with pc := zext16 nnn, stack := s.stack.set s.sp.val (s.pc + 2), sp := ⟨s.sp.val + 1, by omega⟩ } := by
  show execCall nnn s = _
  have hp : s.advance.push s.advance.pc =
      some { s.advance with stack := s.stack.set s.sp.val (s.pc + 2), sp := ⟨s.sp.val + 1, by omega⟩ } := dif_pos h
  unfold execCall
  rw [hp]
  rfl

/-- 2nnn with all sixteen entries in use. -/
theorem exec_call_fault {nnn : Imm12} {s : State} (h : s.sp.val = 16) :
    exec (.call nnn) s = .next (s.takeFault .stackOverflow) := by
  show execCall nnn s = _
  have hp : s.advance.push s.advance.pc = none := State.push_none.2 h
  unfold execCall
  rw [hp]

/-- Ex9E on a key number. -/
theorem exec_skp_ok {x k : RegIdx} {s : State} (h : (s.getV x).toNat = k.val) :
    exec (.skp x) s = .next (s.advance.skipIf (s.pressed k)) := by
  show execSkp x s = _
  unfold execSkp
  rw [keyOf_some.2 h]

/-- Ex9E above 15. -/
theorem exec_skp_fault {x : RegIdx} {s : State} (h : 15 < (s.getV x).toNat) :
    exec (.skp x) s = .next (s.takeFault .keyRange) := by
  show execSkp x s = _
  unfold execSkp
  rw [keyOf_none.2 h]

/-- ExA1 on a key number. -/
theorem exec_sknp_ok {x k : RegIdx} {s : State} (h : (s.getV x).toNat = k.val) :
    exec (.sknp x) s = .next (s.advance.skipIf (! s.pressed k)) := by
  show execSknp x s = _
  unfold execSknp
  rw [keyOf_some.2 h]

/-- ExA1 above 15. -/
theorem exec_sknp_fault {x : RegIdx} {s : State} (h : 15 < (s.getV x).toNat) :
    exec (.sknp x) s = .next (s.takeFault .keyRange) := by
  show execSknp x s = _
  unfold execSknp
  rw [keyOf_none.2 h]

/-- Fx0A with a key pressed, k the lowest. -/
theorem exec_ldVxK_key {x k : RegIdx} {s : State} (h : s.lowestKey = some k) :
    exec (.ldVxK x) s = .next (s.advance.setV x (BitVec.ofNat 8 k.val)) := by
  show execLdVxK x s = _
  unfold execLdVxK
  rw [h]

/-- Fx0A with none pressed: the state as it was, PC at the instruction. -/
theorem exec_ldVxK_wait {x : RegIdx} {s : State} (h : s.lowestKey = none) : exec (.ldVxK x) s = .next s := by
  show execLdVxK x s = _
  unfold execLdVxK
  rw [h]
  simp [State.advance, State.setPc]

/-- Only Cxkk looks at the host's random byte (10_state.md rule R32). -/
theorem execWith_of_not_rnd {r : Byte} {i : Instr} {s : State} (h : ∀ x kk, i ≠ .rnd x kk) :
    execWith r i s = exec i s := by
  cases i
  case rnd x kk => exact absurd rfl (h x kk)
  all_goals rfl

end Sys2Proof.Machine
end

