-- ==== Sys2Proof/Laws/PerInstr.lean ====
section
/-! SUPPORT. A law per instruction: the word of a well-formed instruction has the fixed bits its row of
spec/opcode_table.json gives it (30_encoding.md rules R62, R66). -/

namespace Sys2Proof

/-! ### The fixed bits of the formats -/

/-- Format NNN: `op` is bits 15:12. -/
theorem formNnn_op (op : BitVec 4) (nnn : Imm12) : formNnn op nnn &&& 0xF000 = op ++ (0 : Imm12) := by
  apply BitVec.eq_of_getLsbD_eq
  intro k hk
  simp only [formNnn, BitVec.getLsbD_and, BitVec.getLsbD_append]
  interval_cases k <;> simp

/-- Format XKK: `op` is bits 15:12. -/
theorem formXkk_op (op : BitVec 4) (x : RegIdx) (kk : Byte) : formXkk op x kk &&& 0xF000 = op ++ (0 : Imm12) := by
  apply BitVec.eq_of_getLsbD_eq
  intro k hk
  simp only [formXkk, BitVec.getLsbD_and, BitVec.getLsbD_append]
  interval_cases k <;> simp

/-- Format XSEL: `op` and the low byte. -/
theorem formXkk_sel (op : BitVec 4) (x : RegIdx) (kk : Byte) : formXkk op x kk &&& 0xF0FF = formXkk op 0 kk := by
  apply BitVec.eq_of_getLsbD_eq
  intro k hk
  simp only [formXkk, regBits, BitVec.getLsbD_and, BitVec.getLsbD_append]
  interval_cases k <;> simp

/-- Format XYN, and XY with its selector ignored: `op` is bits 15:12. -/
theorem formXyn_op (op : BitVec 4) (x y : RegIdx) (n : BitVec 4) : formXyn op x y n &&& 0xF000 = op ++ (0 : Imm12) := by
  apply BitVec.eq_of_getLsbD_eq
  intro k hk
  simp only [formXyn, BitVec.getLsbD_and, BitVec.getLsbD_append]
  interval_cases k <;> simp

/-- Format XY: `op` and the low nibble. -/
theorem formXyn_sel (op : BitVec 4) (x y : RegIdx) (n : BitVec 4) : formXyn op x y n &&& 0xF00F = formXyn op 0 0 n := by
  apply BitVec.eq_of_getLsbD_eq
  intro k hk
  simp only [formXyn, regBits, BitVec.getLsbD_and, BitVec.getLsbD_append]
  interval_cases k <;> simp

end Sys2Proof

namespace Sys2Proof.Laws.FixedBits

open Sys2Proof

/-- The word of a well-formed instruction, under its row's mask, is its row's match. -/
def Statement (i : Instr) : Prop := i.wf = true → encode i &&& (rowOf i).mask = (rowOf i).value

theorem cls : Statement .cls := fun _ => rfl

theorem ret : Statement .ret := fun _ => rfl

theorem sys (nnn : Imm12) : Statement (.sys nnn) := fun _ => formNnn_op _ nnn

theorem jp (nnn : Imm12) : Statement (.jp nnn) := fun _ => formNnn_op _ nnn

theorem call (nnn : Imm12) : Statement (.call nnn) := fun _ => formNnn_op _ nnn

theorem seImm (x : RegIdx) (kk : Byte) : Statement (.seImm x kk) := fun _ => formXkk_op _ x kk

theorem sneImm (x : RegIdx) (kk : Byte) : Statement (.sneImm x kk) := fun _ => formXkk_op _ x kk

theorem seReg (x : RegIdx) (y : RegIdx) : Statement (.seReg x y) := fun _ => formXyn_op _ x y _

theorem ldImm (x : RegIdx) (kk : Byte) : Statement (.ldImm x kk) := fun _ => formXkk_op _ x kk

theorem addImm (x : RegIdx) (kk : Byte) : Statement (.addImm x kk) := fun _ => formXkk_op _ x kk

theorem ldReg (x : RegIdx) (y : RegIdx) : Statement (.ldReg x y) := fun _ => formXyn_sel _ x y _

theorem orReg (x : RegIdx) (y : RegIdx) : Statement (.orReg x y) := fun _ => formXyn_sel _ x y _

theorem andReg (x : RegIdx) (y : RegIdx) : Statement (.andReg x y) := fun _ => formXyn_sel _ x y _

theorem xorReg (x : RegIdx) (y : RegIdx) : Statement (.xorReg x y) := fun _ => formXyn_sel _ x y _

theorem addReg (x : RegIdx) (y : RegIdx) : Statement (.addReg x y) := fun _ => formXyn_sel _ x y _

theorem subReg (x : RegIdx) (y : RegIdx) : Statement (.subReg x y) := fun _ => formXyn_sel _ x y _

theorem shr (x : RegIdx) (y : RegIdx) : Statement (.shr x y) := fun _ => formXyn_sel _ x y _

theorem subn (x : RegIdx) (y : RegIdx) : Statement (.subn x y) := fun _ => formXyn_sel _ x y _

theorem shl (x : RegIdx) (y : RegIdx) : Statement (.shl x y) := fun _ => formXyn_sel _ x y _

theorem sneReg (x : RegIdx) (y : RegIdx) : Statement (.sneReg x y) := fun _ => formXyn_op _ x y _

theorem ldI (nnn : Imm12) : Statement (.ldI nnn) := fun _ => formNnn_op _ nnn

theorem jpV0 (nnn : Imm12) : Statement (.jpV0 nnn) := fun _ => formNnn_op _ nnn

theorem rnd (x : RegIdx) (kk : Byte) : Statement (.rnd x kk) := fun _ => formXkk_op _ x kk

theorem drw (x : RegIdx) (y : RegIdx) (n : BitVec 4) : Statement (.drw x y n) := fun _ => formXyn_op _ x y _

theorem skp (x : RegIdx) : Statement (.skp x) := fun _ => formXkk_sel _ x _

theorem sknp (x : RegIdx) : Statement (.sknp x) := fun _ => formXkk_sel _ x _

theorem ldVxDt (x : RegIdx) : Statement (.ldVxDt x) := fun _ => formXkk_sel _ x _

theorem ldVxK (x : RegIdx) : Statement (.ldVxK x) := fun _ => formXkk_sel _ x _

theorem ldDtVx (x : RegIdx) : Statement (.ldDtVx x) := fun _ => formXkk_sel _ x _

theorem ldStVx (x : RegIdx) : Statement (.ldStVx x) := fun _ => formXkk_sel _ x _

theorem addI (x : RegIdx) : Statement (.addI x) := fun _ => formXkk_sel _ x _

theorem ldF (x : RegIdx) : Statement (.ldF x) := fun _ => formXkk_sel _ x _

theorem ldB (x : RegIdx) : Statement (.ldB x) := fun _ => formXkk_sel _ x _

theorem storeRegs (x : RegIdx) : Statement (.storeRegs x) := fun _ => formXkk_sel _ x _

theorem loadRegs (x : RegIdx) : Statement (.loadRegs x) := fun _ => formXkk_sel _ x _

theorem unmatched (w : Word) : Statement (.unmatched w) := fun _ => by simp [encode, rowOf]

end Sys2Proof.Laws.FixedBits
end

