-- ==== Sys2Proof/Tests/Slice0.lean ====
section
/-! SUPPORT. The model's own tests. Expected values are those of spec/95_test_vectors.md (the vector's id stands at
each test) or are written out from the rule named. -/

namespace Sys2Proof.Tests

open Sys2Proof Sys2Proof.Machine

/-! ### Helpers: one step on a small state -/

/-- The state one cycle leaves when the word `w` stands at PC. -/
def after (s : State) (w : Nat) : Option State :=
  match step (s.withFetchWord 16 w) with
  | .next t => some t
  | .fault _ => none
  | .refused _ => none

/-- The reset state with some registers set. -/
def withRegs (rs : List (RegIdx × Byte)) : State := rs.foldl (fun s r => s.setV r.1 r.2) State.reset

/-- One register and VF after one cycle. -/
def regFlag (s : State) (w : Nat) (x : RegIdx) : Option (Byte × Byte) := (after s w).map (fun t => (t.getV x, t.getV 15))

/-- PC and FLT after one cycle. -/
def pcFlt (s : State) (w : Nat) : Option (Word × BitVec 3) := (after s w).map (fun t => (t.pc, t.flt))

/-! ### Well-formedness refuses what it must -/

theorem test_wf_refuses_sys_00E0 : (Instr.sys 0x0E0).wf = false := by decide
theorem test_wf_refuses_sys_00EE : (Instr.sys 0x0EE).wf = false := by decide
theorem test_wf_refuses_matched_word : (Instr.unmatched 0x8010).wf = false := by decide
theorem test_wf_refuses_matched_key_word : (Instr.unmatched 0xE59E).wf = false := by decide
theorem test_wf_refuses_matched_timer_word : (Instr.unmatched 0xF407).wf = false := by decide
theorem test_wf_refuses_primary_word : (Instr.unmatched 0x1208).wf = false := by decide
theorem test_decode_refuses_one_byte : decode [0x12] = .error .truncated := by decide
theorem test_decode_refuses_no_byte : decode [] = .error .truncated := by decide

/-! ### Decoding: a word written out from the spec's encoding for every constructor -/

/-- Primary 0x0 and the jumps and calls: whole word, then nnn. -/
theorem test_decode_fixed_and_nnn :
    decodeTableWord 16 0x00E0 = some .cls ∧ decodeTableWord 16 0x00EE = some .ret ∧
    decodeTableWord 16 0x0123 = some (.sys 0x123) ∧ decodeTableWord 16 0x1208 = some (.jp 0x208) ∧
    decodeTableWord 16 0x220C = some (.call 0x20C) ∧ decodeTableWord 16 0xA300 = some (.ldI 0x300) ∧
    decodeTableWord 16 0xB300 = some (.jpV0 0x300) := by decide

/-- Format XKK. -/
theorem test_decode_xkk :
    decodeTableWord 16 0x3122 = some (.seImm 1 0x22) ∧ decodeTableWord 16 0x4100 = some (.sneImm 1 0x00) ∧
    decodeTableWord 16 0x6A2C = some (.ldImm 10 0x2C) ∧ decodeTableWord 16 0x7305 = some (.addImm 3 0x05) ∧
    decodeTableWord 16 0xC30F = some (.rnd 3 0x0F) := by decide

/-- Format XY, the low nibble ignored for 5 and 9 (vectors C13, C17). -/
theorem test_decode_xy_skips :
    decodeTableWord 16 0x5230 = some (.seReg 2 3) ∧ decodeTableWord 16 0x5237 = some (.seReg 2 3) ∧
    decodeTableWord 16 0x9230 = some (.sneReg 2 3) ∧ decodeTableWord 16 0x923F = some (.sneReg 2 3) := by decide

/-- Primary 0x8 by its low nibble. -/
theorem test_decode_8 :
    decodeTableWord 16 0x8010 = some (.ldReg 0 1) ∧ decodeTableWord 16 0x8231 = some (.orReg 2 3) ∧
    decodeTableWord 16 0x8232 = some (.andReg 2 3) ∧ decodeTableWord 16 0x8233 = some (.xorReg 2 3) ∧
    decodeTableWord 16 0x80F4 = some (.addReg 0 15) ∧ decodeTableWord 16 0x8455 = some (.subReg 4 5) ∧
    decodeTableWord 16 0x8016 = some (.shr 0 1) ∧ decodeTableWord 16 0x8457 = some (.subn 4 5) ∧
    decodeTableWord 16 0x870E = some (.shl 7 0) := by decide

/-- Dxyn and primary 0xE by its low byte. -/
theorem test_decode_drw_keys :
    decodeTableWord 16 0xD125 = some (.drw 1 2 5) ∧ decodeTableWord 16 0xE59E = some (.skp 5) ∧
    decodeTableWord 16 0xE5A1 = some (.sknp 5) := by decide

/-- Primary 0xF by its low byte. -/
theorem test_decode_F :
    decodeTableWord 16 0xF407 = some (.ldVxDt 4) ∧ decodeTableWord 16 0xF50A = some (.ldVxK 5) ∧
    decodeTableWord 16 0xF315 = some (.ldDtVx 3) ∧ decodeTableWord 16 0xF318 = some (.ldStVx 3) ∧
    decodeTableWord 16 0xF21E = some (.addI 2) ∧ decodeTableWord 16 0xF029 = some (.ldF 0) ∧
    decodeTableWord 16 0xF233 = some (.ldB 2) ∧ decodeTableWord 16 0xF155 = some (.storeRegs 1) ∧
    decodeTableWord 16 0xF265 = some (.loadRegs 2) := by decide

/-- Unmatched words (vectors T8, T14, and a SUPER-CHIP word of 90_conflicts.md C2). -/
theorem test_decode_unmatched :
    decodeTableWord 16 0x8FF8 = some (.unmatched 0x8FF8) ∧ decodeTableWord 16 0xE5A0 = some (.unmatched 0xE5A0) ∧
    decodeTableWord 16 0xF030 = some (.unmatched 0xF030) := by decide

/-- The encoder, against the words the spec writes in its programs P1 to P5. -/
theorem test_encode_program_words :
    encode (.call 0x20C) = 0x220C ∧ encode (.addReg 0 1) = 0x8014 ∧ encode (.addImm 1 0xFF) = 0x71FF ∧
    encode (.drw 1 2 5) = 0xD125 ∧ encode (.ldVxK 5) = 0xF50A ∧ encode (.storeRegs 1) = 0xF155 := by decide

/-! ### Arithmetic and registers -/

/-- A1. -/
theorem test_ldImm_vf : regFlag State.reset 0x6F7B 15 = some (0x7B, 0x7B) := by decide
/-- A2. -/
theorem test_addImm_wraps_vf_kept : regFlag (withRegs [(3, 0xFE), (15, 0x55)]) 0x7305 3 = some (0x03, 0x55) := by decide
/-- A3. -/
theorem test_addImm_vf_plain : regFlag (withRegs [(15, 1)]) 0x7FFF 15 = some (0, 0) := by decide
/-- A5. -/
theorem test_ldReg : regFlag (withRegs [(1, 0x7B)]) 0x8010 0 = some (0x7B, 0) := by decide
/-- A7. -/
theorem test_orReg : regFlag (withRegs [(2, 0xF0), (3, 0x0C), (15, 0x55)]) 0x8231 2 = some (0xFC, 0x55) := by decide
/-- A8. -/
theorem test_andReg : regFlag (withRegs [(2, 0xF0), (3, 0x3C), (15, 0x55)]) 0x8232 2 = some (0x30, 0x55) := by decide
/-- A9. -/
theorem test_xorReg : regFlag (withRegs [(2, 0xF0), (3, 0x3C), (15, 0x55)]) 0x8233 2 = some (0xCC, 0x55) := by decide
/-- A12. -/
theorem test_addReg_sum_256 : regFlag (withRegs [(0, 0xFF), (1, 0x01)]) 0x8014 0 = some (0x00, 1) := by decide
/-- A14. -/
theorem test_addReg_x_is_vf : regFlag (withRegs [(15, 0xC8), (1, 0x64)]) 0x8F14 15 = some (1, 1) := by decide
/-- A17. -/
theorem test_subReg_equal : regFlag (withRegs [(0, 7), (1, 7)]) 0x8015 0 = some (0, 0) := by decide
/-- E3. -/
theorem test_subReg_wraps : regFlag (withRegs [(0, 5), (1, 10)]) 0x8015 0 = some (251, 0) := by decide
/-- A23. -/
theorem test_shr_ignores_vy : regFlag (withRegs [(0, 0x80), (1, 0xFF)]) 0x8016 0 = some (0x40, 0) := by decide
/-- A24. -/
theorem test_shr_x_is_vf : regFlag (withRegs [(15, 0x02)]) 0x8F06 15 = some (0, 0) := by decide
/-- A25. -/
theorem test_subn_greater : regFlag (withRegs [(4, 5), (5, 10)]) 0x8457 4 = some (5, 1) := by decide
/-- A26. -/
theorem test_subn_wraps : regFlag (withRegs [(4, 10), (5, 5)]) 0x8457 4 = some (0xFB, 0) := by decide
/-- A28. -/
theorem test_shl_bit_out : regFlag (withRegs [(7, 0x81)]) 0x870E 7 = some (0x02, 1) := by decide
/-- A29. -/
theorem test_shl_no_bit_out : regFlag (withRegs [(7, 0x7F)]) 0x870E 7 = some (0xFE, 0) := by decide
/-- A31: with the random byte 0xB7. -/
theorem test_rnd_masks : (match cycle 0xB7 (State.reset.withFetchWord 16 0xC30F) with
    | .next t => some (t.getV 3) | _ => none) = some 0x07 := by decide
/-- A32: mask 0, with whatever the free value is. -/
theorem test_rnd_mask_zero : (after (withRegs [(3, 0x99)]) 0xC300).map (fun t => t.getV 3) = some 0 := by
  have h : (Config.rnd 0) &&& (0 : Byte) = 0 := BitVec.and_zero
  exact congrArg some h

/-! ### Control flow -/

/-- C1. -/
theorem test_sys_no_op : (after State.reset 0x00E1) = some { State.reset.withFetchWord 16 0x00E1 with pc := 0x202 } := by decide
/-- C2. -/
theorem test_ret_pops : (after { State.reset with pc := 0x300, sp := 2, stack := (Vector.replicate 16 0).set 1 0x0456 } 0x00EE).map
    (fun t => (t.pc, t.sp, t.stack[1])) = some (0x0456, 1, 0x0456) := by decide
/-- C3. -/
theorem test_ret_underflow : pcFlt State.reset 0x00EE = some (0x200, 4) := by decide
/-- C4. -/
theorem test_jp : pcFlt State.reset 0x1ABC = some (0x0ABC, 0) := by decide
/-- C6. -/
theorem test_call_pushes : (after { State.reset with pc := 0xFFE } 0x2ABC).map (fun t => (t.pc, t.sp, t.stack[0])) =
    some (0x0ABC, 1, 0x1000) := by decide
/-- C7. -/
theorem test_call_overflow : (after { State.reset with sp := 16 } 0x2200).map (fun t => (t.pc, t.sp, t.flt)) =
    some (0x200, 16, 3) := by decide
/-- C8. -/
theorem test_seImm_taken : pcFlt { State.reset with pc := 0x208 } 0x3100 = some (0x20C, 0) := by decide
/-- C9. -/
theorem test_seImm_not_taken : pcFlt { withRegs [(1, 1)] with pc := 0x208 } 0x3100 = some (0x20A, 0) := by decide
/-- C10. -/
theorem test_sneImm_taken : pcFlt { withRegs [(1, 1)] with pc := 0x208 } 0x4100 = some (0x20C, 0) := by decide
/-- C13. -/
theorem test_seReg_low_nibble : pcFlt (withRegs [(2, 0x44), (3, 0x44)]) 0x5237 = some (0x204, 0) := by decide
/-- C15. -/
theorem test_sneReg_taken : pcFlt (withRegs [(2, 0x44), (3, 0x45)]) 0x9230 = some (0x204, 0) := by decide
/-- C16. -/
theorem test_sneReg_same_register : pcFlt (withRegs [(2, 0x44)]) 0x9220 = some (0x202, 0) := by decide
/-- C19. -/
theorem test_jpV0_largest : pcFlt (withRegs [(0, 0xFF)]) 0xBFFF = some (0x10FE, 0) := by decide
/-- C21. -/
theorem test_fetch_at_FFF : pcFlt { State.reset with pc := 0xFFF } 0x0000 = some (0xFFF, 1) := by decide
/-- T8. -/
theorem test_unmatched_ticks : (after { State.reset with dt := 7, st := 2 } 0x8FF8).map (fun t => (t.pc, t.dt, t.st)) =
    some (0x202, 6, 1) := by decide

/-! ### Display -/

/-- The sprite bytes at 0x300, I there, and some registers. -/
def sprite (bs : List Byte) (rs : List (RegIdx × Byte)) : State :=
  { withRegs rs with i := 0x300, mem := Memory.writeBytes [] 0x300 bs }

/-- D1. -/
theorem test_cls : (after { withRegs [(15, 0x55)] with vid := (Vector.replicate 32 0).set 1 0x10 } 0x00E0).map
    (fun t => (t.vid, t.getV 15)) = some (Vector.replicate 32 0, 0x55) := by decide
/-- D6: the right edge clips. -/
theorem test_drw_clips_right : (after (sprite [0xFF] [(0, 60)]) 0xD011).map (fun t => (t.vid, t.getV 15)) =
    some ((Vector.replicate 32 (0 : BitVec 64)).set 0 0xF000000000000000#64, 0) := by decide
/-- D12: the collision of row 0 is kept. -/
theorem test_drw_collision_kept :
    (after ((sprite [0x01, 0x00] [(0, 56)]).setVid ((Vector.replicate 32 (0 : BitVec 64)).set 0 0x8000000000000000#64)) 0xD012).map
      (fun t => (t.vid, t.getV 15)) = some (Vector.replicate 32 0, 1) := by decide

/-! ### Index, BCD, block transfer -/

/-- M1. -/
theorem test_ldI : (after State.reset 0xAFFF).map (fun t => t.i) = some 0x0FFF := by decide
/-- M2. -/
theorem test_addI_past_memory : (after { withRegs [(0, 1), (15, 0x55)] with i := 0x0FFF } 0xF01E).map
    (fun t => (t.i, t.getV 15, t.flt)) = some (0x1000, 0x55, 0) := by decide
/-- M3. -/
theorem test_addI_wraps : (after { withRegs [(0, 1)] with i := 0xFFFF } 0xF01E).map (fun t => t.i) = some 0 := by decide
/-- M7. -/
theorem test_ldF_unmasked : (after (withRegs [(0, 0xFF)]) 0xF029).map (fun t => t.i) = some 0x054B := by decide
/-- E8: the glyph of A (with the FONT parameter's default, log 4). -/
theorem test_ldF_glyph_A : (after (withRegs [(0, 0x0A)]) 0xF029).map
    (fun t => (t.i, [0, 1, 2, 3, 4].map (fun k => t.mem.read (t.i.toNat + k)))) =
    some (0x0082, [0xF0, 0x90, 0xF0, 0x90, 0x90]) := by decide
/-- M12. -/
theorem test_ldB_top : (after { withRegs [(0, 123)] with i := 0xFFD } 0xF033).map
    (fun t => (t.mem.read 0xFFD, t.mem.read 0xFFE, t.mem.read 0xFFF)) = some (1, 2, 3) := by decide
/-- M13. -/
theorem test_ldB_range : (after { withRegs [(0, 123)] with i := 0xFFE } 0xF033).map
    (fun t => (t.flt, t.pc, t.mem.read 0xFFE, t.mem.read 0xFFF)) = some (2, 0x200, 0, 0) := by decide
/-- M14. -/
theorem test_storeRegs : (after { withRegs [(0, 0x0F), (1, 0x00), (2, 0x77)] with i := 0x400 } 0xF155).map
    (fun t => (t.mem.read 0x400, t.mem.read 0x401, t.mem.read 0x402, t.i)) = some (0x0F, 0, 0, 0x400) := by decide
/-- M16. -/
theorem test_storeRegs_range : (after { State.reset with i := 0xFF1 } 0xFF55).map (fun t => (t.flt, t.mem)) =
    some (2, (State.reset.withFetchWord 16 0xFF55).mem) := by decide
/-- M17. -/
theorem test_loadRegs : (after { withRegs [(3, 0x99)] with i := 0x400, mem := Memory.writeBytes [] 0x400 [0x11, 0x22, 0x33, 0x44] }
    0xF265).map (fun t => (t.getV 0, t.getV 1, t.getV 2, t.getV 3)) = some (0x11, 0x22, 0x33, 0x99) := by decide
/-- M19. -/
theorem test_loadRegs_range : pcFlt { State.reset with i := 0x1000 } 0xF065 = some (0x200, 2) := by decide

/-! ### Timers and keys -/

/-- T6. -/
theorem test_ldVxDt_before_tick : (after { State.reset with dt := 3 } 0xF407).map (fun t => (t.getV 4, t.dt)) = some (3, 2) := by decide
/-- T2. -/
theorem test_ldDtVx_one : (after (withRegs [(3, 1)]) 0xF315).map (fun t => t.dt) = some 0 := by decide
/-- T5. -/
theorem test_ldStVx : (after { withRegs [(3, 5)] with dt := 2 } 0xF318).map (fun t => (t.st, t.dt)) = some (4, 1) := by decide
/-- T10. -/
theorem test_skp_content_not_field : pcFlt { withRegs [(5, 7)] with key := 0x0020 } 0xE59E = some (0x202, 0) := by decide
/-- T13. -/
theorem test_skp_range : pcFlt (withRegs [(5, 16)]) 0xE59E = some (0x200, 5) := by decide
/-- T11. -/
theorem test_sknp_taken : pcFlt (withRegs [(5, 7)]) 0xE5A1 = some (0x204, 0) := by decide
/-- T15. -/
theorem test_ldVxK_lowest : (after { State.reset with key := 0x0208 } 0xF50A).map (fun t => (t.getV 5, t.pc)) = some (3, 0x202) := by decide
/-- T17. -/
theorem test_ldVxK_waits : (after { withRegs [(5, 0x77)] with dt := 2 } 0xF50A).map (fun t => (t.getV 5, t.pc, t.dt)) =
    some (0x77, 0x200, 1) := by decide
/-- T18. -/
theorem test_halted : (after { State.reset with flt := 2, dt := 9 } 0xF015).map (fun t => (t.dt, t.pc, t.flt)) = some (9, 0x200, 2) := by decide

/-- 20_memory.md rule R44, bytes placed by hand: 0x6A at the lower address is the high byte of 6xkk, so VA = 0x2C. -/
theorem test_fetch_big_endian : (match step { State.reset with mem := [(0x200, 0x6A), (0x201, 0x2C)] } with
    | .next t => some (t.getV 10, t.pc) | _ => none) = some (0x2C, 0x202) := by decide

/-! ### Host transactions -/

/-- H1. -/
theorem test_loadRom : (loadRom [0x12, 0x00] State.reset).1.mem = [(0x200, 0x12)] := by decide
/-- H3. -/
theorem test_loadRom_too_long : loadRom (List.replicate 3585 1) State.reset = (State.reset, false) := by
  have h : ¬ (List.replicate 3585 (1 : Byte)).length ≤ Config.maxRom := by
    rw [List.length_replicate]; decide
  unfold loadRom
  rw [if_neg h]
/-- H5. -/
theorem test_setKeys : (List.finRange 16).filter (setKeys 0x0880 State.reset).pressed = [7, 11] := by decide
/-- H6, on one row's word and its neighbour. -/
theorem test_videoWord : ([2045, 2046].map fun k => videoWord (vidElem ((Vector.replicate 32 0).set 31 (1#64 <<< 62)) k)) =
    [0x00000000, 0xFFFFFFFF] := by decide
/-- H7. -/
theorem test_hostReset : hostReset { State.reset with flt := 3, pc := 0x300, mem := [(0x200, 1)] } = State.reset := by decide

/-! ### Witnesses: concrete states and operands that meet the hypotheses of each statement of
Certificates/Slice0/Obligations.lean that has any, each clause at a boundary of its range -/

theorem witness_DecodeOfEncodedInstruction :
    (Instr.sys 0x0EF).wf = true ∧ (Instr.unmatched 0x8008).wf = true ∧ (Instr.drw 15 0 0xF).wf = true := by decide

theorem witness_PrimarySelectorAloneDecides :
    fieldOp 0x5230 = fieldOp 0x523F ∧ fieldOp 0x5230 ∉ [0x0#4, 0x8#4, 0xE#4, 0xF#4] := by decide

/-- A word under each mask and match that `EncodedAs` is stated for, and a register that is not VF. -/
theorem witness_EncodedAs :
    (0x6A2C#16 &&& 0xF000 = 0x6000 ∧ 0x7305#16 &&& 0xF000 = 0x7000 ∧ 0x8010#16 &&& 0xF00F = 0x8000 ∧
      0x8231#16 &&& 0xF00F = 0x8001 ∧ 0x8232#16 &&& 0xF00F = 0x8002 ∧ 0x8233#16 &&& 0xF00F = 0x8003 ∧
      0x8014#16 &&& 0xF00F = 0x8004 ∧ 0x8455#16 &&& 0xF00F = 0x8005 ∧ 0x8016#16 &&& 0xF00F = 0x8006 ∧
      0x8457#16 &&& 0xF00F = 0x8007 ∧ 0x870E#16 &&& 0xF00F = 0x800E ∧ 0xC30F#16 &&& 0xF000 = 0xC000) ∧
    (0x1208#16 &&& 0xF000 = 0x1000 ∧ 0x220C#16 &&& 0xF000 = 0x2000 ∧ 0x3100#16 &&& 0xF000 = 0x3000 ∧
      0x4100#16 &&& 0xF000 = 0x4000 ∧ 0x5237#16 &&& 0xF000 = 0x5000 ∧ 0x923F#16 &&& 0xF000 = 0x9000 ∧
      0xA300#16 &&& 0xF000 = 0xA000 ∧ 0xB300#16 &&& 0xF000 = 0xB000) ∧
    (0xE59E#16 &&& 0xF0FF = 0xE09E ∧ 0xE5A1#16 &&& 0xF0FF = 0xE0A1 ∧ 0xF407#16 &&& 0xF0FF = 0xF007 ∧
      0xF50A#16 &&& 0xF0FF = 0xF00A ∧ 0xF315#16 &&& 0xF0FF = 0xF015 ∧ 0xF318#16 &&& 0xF0FF = 0xF018 ∧
      0xF21E#16 &&& 0xF0FF = 0xF01E ∧ 0xF029#16 &&& 0xF0FF = 0xF029 ∧ 0xF233#16 &&& 0xF0FF = 0xF033 ∧
      0xF155#16 &&& 0xF0FF = 0xF055 ∧ 0xF265#16 &&& 0xF0FF = 0xF065) := by decide

theorem witness_result_register_not_vf : (0 : RegIdx) ≠ 15 ∧ (14 : RegIdx) ≠ 15 := by decide

theorem witness_FlagWritersExactly :
    (∃ t, exec (.addReg 0 1) State.reset = .next t ∧ faultOf (.addReg 0 1) State.reset = none ∧
      writesFlag (.addReg 0 1) = true) ∧
    (∃ t, exec (.ldImm 14 1) State.reset = .next t ∧ faultOf (.ldImm 14 1) State.reset = none ∧
      writesFlag (.ldImm 14 1) = false ∧ 15 ∉ writtenRegs (.ldImm 14 1)) :=
  ⟨⟨_, rfl, rfl, rfl⟩, ⟨_, rfl, rfl, rfl, by decide⟩⟩

theorem witness_NoOpsOnlyAdvance :
    0x00E1#16 &&& 0xF000 = 0 ∧ 0x00E1#16 ≠ 0x00E0 ∧ 0x00E1#16 ≠ 0x00EE ∧
    Running (State.reset.withFetchWord 16 0x0123) ∧
    (State.reset.withFetchWord 16 0x0123).fetch.map decodeWord = some (.sys 0x123) := by decide

theorem witness_UnmatchedWordCycle :
    Running (State.reset.withFetchWord 16 0x8FF8) ∧ (State.reset.withFetchWord 16 0x8FF8).fetch = some 0x8FF8 ∧
      isUnmatchedWord 0x8FF8 = true := by decide

theorem witness_CallPushesOrOverflows :
    ({ State.reset with sp := 0 } : State).sp.val = (0 : Fin 16).val ∧
    ({ State.reset with sp := 15 } : State).sp.val = (15 : Fin 16).val ∧
    ({ State.reset with sp := 16 } : State).sp = 16 := by decide

theorem witness_ReturnPopsOrUnderflows :
    ({ State.reset with sp := 1 } : State).sp.val = (0 : Fin 16).val + 1 ∧
    ({ State.reset with sp := 16 } : State).sp.val = (15 : Fin 16).val + 1 ∧ State.reset.sp = 0 := by decide

theorem witness_ReturnGoesToTheWordAfterTheCall :
    (∃ s t u : State, s.sp.val = (15 : Fin 16).val ∧ exec (.call 0x20C) s = .next t ∧
      u.stack[(15 : Fin 16).val] = t.stack[(15 : Fin 16).val] ∧ u.sp = t.sp) ∧
    (∃ s t u : State, s.sp.val = (0 : Fin 16).val ∧ exec (.call 0x20C) s = .next t ∧
      u.stack[(0 : Fin 16).val] = t.stack[(0 : Fin 16).val] ∧ u.sp = t.sp ∧ u.stack ≠ t.stack) :=
  ⟨⟨{ State.reset with sp := 15 }, _, _, rfl, rfl, rfl, rfl⟩,
   ⟨State.reset, { State.reset with pc := 0x20C, sp := 1, stack := (Vector.replicate 16 0).set 0 0x202 },
    { State.reset with pc := 0x20E, sp := 1, stack := ((Vector.replicate 16 0).set 0 0x202).set 1 0x20E },
    rfl, rfl, rfl, rfl, by decide⟩⟩

theorem witness_DrawTogglesCoveredPixels :
    ((0#4 = 0 ∨ ({ State.reset with i := 0xFFFF } : State).i.toNat + (0#4).toNat - 1 ≤ 0xFFF) ∧
    (1#4 = 0 ∨ ({ State.reset with i := 0xFFF } : State).i.toNat + (1#4).toNat - 1 ≤ 0xFFF)) ∧
    (0xF#4 = 0 ∨ ({ State.reset with i := 0xFF1 } : State).i.toNat + (0xF#4).toNat - 1 ≤ 0xFFF) := by decide

theorem witness_DrawingTwiceRestoresTheDisplay :
    ∃ s t u : State, faultOf (.drw 0 1 1) s = none ∧ exec (.drw 0 1 1) s = .next t ∧ u.vid = t.vid ∧ u.i = s.i ∧
      (∀ r, r < (1#4).toNat → u.mem.read (s.i.toNat + r) = s.mem.read (s.i.toNat + r)) ∧ u.getV 0 = s.getV 0 ∧
      u.getV 1 = s.getV 1 :=
  ⟨sprite [0xC0] [(0, 62), (1, 31)], _, _, by decide, rfl, rfl, rfl, fun _ _ => rfl, rfl, rfl⟩

theorem witness_BcdStoresThreeDigits :
    MemCanonical { State.reset with i := 0xFFD } ∧ ({ State.reset with i := 0xFFD } : State).i.toNat + 2 ≤ 0xFFF := by decide

theorem witness_BlockTransfer :
    MemCanonical { State.reset with i := 0xFF0 } ∧
    ({ State.reset with i := 0xFF0 } : State).i.toNat + (15 : RegIdx).val ≤ 0xFFF ∧
    ({ State.reset with i := 0xFFF } : State).i.toNat + (0 : RegIdx).val ≤ 0xFFF := by decide

theorem witness_StoreThenLoadRestoresRegisters :
    ∃ s t u : State, MemCanonical s ∧ s.i.toNat + (15 : RegIdx).val ≤ 0xFFF ∧ exec (.storeRegs 15) s = .next t ∧
      (∀ k : RegIdx, k ≤ 15 → u.mem.read (s.i.toNat + k.val) = t.mem.read (s.i.toNat + k.val)) ∧ u.i = s.i :=
  ⟨{ State.reset with i := 0xFF0 }, _, { State.reset with i := 0xFF0 }, by decide, by decide, rfl, by decide, rfl⟩

theorem witness_FetchSeesStoredBytes :
    ∃ s t u : State, MemCanonical s ∧ s.i.toNat + (1 : RegIdx).val ≤ 0xFFF ∧ exec (.storeRegs 1) s = .next t ∧
      (1 : RegIdx).val = (0 : RegIdx).val + 1 ∧ (1 : RegIdx) ≤ 1 ∧ u.pc.toNat = s.i.toNat + (0 : RegIdx).val ∧
      u.mem.read (s.i.toNat + (0 : RegIdx).val) = t.mem.read (s.i.toNat + (0 : RegIdx).val) ∧
      u.mem.read (s.i.toNat + (1 : RegIdx).val) = t.mem.read (s.i.toNat + (1 : RegIdx).val) :=
  ⟨{ State.reset with i := 0x202 }, _, _, by decide, by decide, rfl, by decide, by decide, by decide, rfl, rfl⟩

theorem witness_TimerOperations :
    Running (State.reset.withFetchWord 16 0xF407) ∧
    (State.reset.withFetchWord 16 0xF407).fetch.map decodeWord = some (.ldVxDt 4) ∧
    (State.reset.withFetchWord 16 0xF315).fetch.map decodeWord = some (.ldDtVx 3) ∧
    (State.reset.withFetchWord 16 0xF318).fetch.map decodeWord = some (.ldStVx 3) := by decide

theorem witness_EveryCompletedCycleTicks :
    (∃ t, step State.reset = .next t ∧ Running t) ∧
    (∃ t, step (State.reset.withFetchWord 16 0x00EE) = .next t ∧ Halted t) :=
  ⟨⟨_, rfl, by decide⟩, ⟨_, rfl, by decide⟩⟩

theorem witness_KeySkips :
    ((withRegs [(5, 15)]).getV 5).toNat = (15 : RegIdx).val ∧ ((withRegs [(5, 0)]).getV 5).toNat = (0 : RegIdx).val ∧
    15 < ((withRegs [(5, 16)]).getV 5).toNat := by decide

theorem witness_KeyWait :
    ({ State.reset with key := 0x8000 } : State).key.getLsbD (15 : RegIdx).val = true ∧
    (∀ j : RegIdx, j < 15 → ({ State.reset with key := 0x8000 } : State).key.getLsbD j.val = false) ∧
    State.reset.key = 0 := by decide

theorem witness_StepRunsDecodedInstruction :
    (∃ (s : State) (i : Instr), Running s ∧ s.pc.toNat ≤ 0xFFE ∧ i.wf = true ∧
      decode [s.mem.read s.pc.toNat, s.mem.read (s.pc.toNat + 1)] = .ok (i, [])) ∧
    (∃ (s : State) (w : Word), Running s ∧ s.pc.toNat ≤ 0xFFE ∧
      w.toNat = (s.mem.read s.pc.toNat).toNat * 256 + (s.mem.read (s.pc.toNat + 1)).toNat) :=
  ⟨⟨{ State.reset with pc := 0xFFE }, .sys 0, by decide, by decide, by decide, by decide⟩,
   ⟨{ State.reset with mem := [(0x200, 0x6A), (0x201, 0x2C)] }, 0x6A2C, by decide, by decide, by decide⟩⟩

theorem witness_FetchBeyondMemoryFaults :
    Running { State.reset with pc := 0xFFF } ∧ 0xFFE < ({ State.reset with pc := 0xFFF } : State).pc.toNat := by decide

theorem witness_HaltedCoreDoesNothing : Halted { State.reset with flt := 2 } := by decide

theorem witness_DataBeyondMemoryFaults :
    ((2#4 ≠ 0 ∧ 0xFFF < ({ State.reset with i := 0xFFF } : State).i.toNat + (2#4).toNat - 1) ∧
    0xFFF < ({ State.reset with i := 0xFFE } : State).i.toNat + 2) ∧
    0xFFF < ({ State.reset with i := 0xFF1 } : State).i.toNat + (15 : RegIdx).val := by decide

theorem witness_FaultsExactlyAsListed :
    faultOf .ret State.reset = some .stackUnderflow ∧ faultOf (.ldB 0) State.reset = none ∧
    faultOf (.ldB 0) { State.reset with i := 0xFFE } = some .dataRange ∧
    faultOf (.call 0) { State.reset with sp := 16 } = some .stackOverflow ∧
    faultOf (.skp 5) (withRegs [(5, 16)]) = some .keyRange := by decide

theorem witness_FaultingStepKeepsEverything :
    (∃ s t : State, Running s ∧ step s = .next t ∧ Halted t ∧ t.flt = 1) ∧
    (∃ s t : State, Running s ∧ step s = .next t ∧ Halted t ∧ t.flt = 4) :=
  ⟨⟨{ State.reset with pc := 0xFFF }, _, by decide, rfl, by decide, rfl⟩,
   ⟨State.reset.withFetchWord 16 0x00EE, _, by decide, rfl, by decide, rfl⟩⟩

theorem witness_StepKeepsTheInvariant : ∃ s t : State, StateInv s ∧ step s = .next t :=
  ⟨State.reset, _, by decide, rfl⟩

theorem witness_HostTransactionsKeepTheInvariant :
    ∃ (s t : State) (r : HostReply), StateInv s ∧ hostOp (.loadRom [0x12, 0x00]) s = .next (t, r) :=
  ⟨State.reset, _, _, by decide, rfl⟩

theorem witness_OnlyNamedOperationsWrite :
    ∃ t, exec (.ldImm 0 1) State.reset = .next t ∧ writesIndex (.ldImm 0 1) = false ∧
      writesDisplay (.ldImm 0 1) = false ∧ writesMemory (.ldImm 0 1) = false ∧ writesStack (.ldImm 0 1) = false ∧
      (∀ x, Instr.ldImm 0 1 ≠ .ldDtVx x) ∧ (∀ x, Instr.ldImm 0 1 ≠ .ldStVx x) :=
  ⟨_, rfl, rfl, rfl, rfl, rfl, by simp, by simp⟩

theorem witness_RandomByteReachesOnlyCxkk :
    ∀ x kk, State.reset.fetch.map decodeWord ≠ some (.rnd x kk) := by
  intro x kk
  have h : State.reset.fetch.map decodeWord = some (.sys 0) := by decide
  simp [h]

theorem witness_EndedProgramStaysEnded : Ended (State.reset.withFetchWord 16 0x1200) :=
  ⟨by decide, 0x200, by decide, by decide⟩

theorem witness_CanonicalMemoriesAreEqual :
    Memory.wf [(0x200, 1)] = true ∧ (∀ a, a < 0x1000 → Memory.read [(0x200, 1)] a = Memory.read [(0x200, 1)] a) :=
  ⟨by decide, fun _ _ => rfl⟩

theorem witness_LoadRomCopiesTheImage :
    MemCanonical State.reset ∧ (List.replicate 3584 (1 : Byte)).length ≤ 3584 ∧ ([] : List Byte).length ≤ 3584 :=
  ⟨by decide, by rw [List.length_replicate], by decide⟩

theorem witness_LoadRomRejectsLongImages : 3584 < (List.replicate 3585 (1 : Byte)).length := by
  rw [List.length_replicate]; decide

theorem witness_CycleReportsItsFault :
    (∃ t a, hostOp (.cycle 0) State.reset = .next (t, a) ∧ Running t) ∧
    (∃ t a, hostOp (.cycle 0) (State.reset.withFetchWord 16 0x00EE) = .next (t, a) ∧ Halted t) :=
  ⟨⟨_, _, rfl, by decide⟩, ⟨_, _, rfl, by decide⟩⟩

end Sys2Proof.Tests
end

section
/-! The host's transactions of 10_state.md section 6: LoadROM (R26), SetKeys (R28), ReadVideo and ReadSound (R29, R30). -/

namespace Sys2Proof

open Sys2Proof.Machine

/-! ### The frame, piece by piece -/

/-- The frame as one equation per piece, in the spelling of the state's own lemmas, so that `simp` closes it. -/
theorem keepsAllBut_iff {written : List Piece} {s t : State} : KeepsAllBut written s t ↔
    (.regs ∉ written → ∀ r, t.getV r = s.getV r) ∧ (.index ∉ written → t.i = s.i) ∧
    (.callStack ∉ written → t.stack = s.stack ∧ t.sp = s.sp) ∧ (.delay ∉ written → t.dt = s.dt) ∧
    (.sound ∉ written → t.st = s.st) ∧ (.keys ∉ written → t.key = s.key) ∧ (.display ∉ written → t.vid = s.vid) ∧
    (.memory ∉ written → ∀ a, t.mem.read a = s.mem.read a) ∧ (.latch ∉ written → t.flt = s.flt) ∧
    (.draws ∉ written → t.draws = s.draws) := by
  constructor
  · intro h
    exact ⟨h .regs, h .index, h .callStack, h .delay, h .sound, h .keys, h .display, h .memory, h .latch, h .draws⟩
  · rintro ⟨_, _, _, _, _, _, _, _, _, _⟩ p
    cases p <;> assumption

theorem keepsAllBut_setMem (s : State) (m : Memory) : KeepsAllBut [.memory] s (s.setMem m) := by
  simp [keepsAllBut_iff, State.getV]

theorem keepsAllBut_setKey (s : State) (k : KeySet) : KeepsAllBut [.keys] s (s.setKey k) := by
  simp [keepsAllBut_iff, State.getV]

end Sys2Proof

namespace Sys2Proof.Machine

/-! ### LoadROM -/

/-- LoadROM of an image that fits is one store at 0x200. -/
theorem hostOp_loadRom_fits {bytes : List Byte} {s : State} (h : bytes.length ≤ 3584) :
    hostOp (.loadRom bytes) s = .next (s.setMem (s.mem.writeBytes 0x200 bytes), .loaded true) := by
  have hl : loadRom bytes s = (s.setMem (s.mem.writeBytes 0x200 bytes), true) := if_pos h
  simp only [hostOp, hl]

/-- Settles O52: the store at 0x200 reads back inside the image, which ends at 0xFFF or below, and keeps every byte
outside it. -/
theorem loadRomCopiesTheImage : Obligations.LoadRomCopiesTheImage := by
  intro bytes s hcanon hlen
  refine ⟨_, hostOp_loadRom_fits hlen, fun j hj => ?_, fun a ha => ?_, rfl, keepsAllBut_setMem s _⟩
  · have hin : 0x200 + j < Config.memSize := by unfold Config.memSize; omega
    exact Memory.read_writeBytes_inside bytes 0x200 j hj hcanon hin
  · exact Memory.read_writeBytes_outside bytes 0x200 a hcanon ha

/-! ### SetKeys, and the keys over a cycle -/

/-- Every operation answers with the keys as they were, whether it completes or faults. -/
theorem exec_answers_same_key (i : Instr) (s : State) : ∃ t, exec i s = .next t ∧ t.key = s.key := by
  cases i with
  | ret =>
    rcases Nat.eq_zero_or_pos s.sp.val with h | h
    · exact ⟨_, exec_ret_fault h, rfl⟩
    · exact ⟨_, exec_ret_ok h, rfl⟩
  | call nnn =>
    rcases Nat.lt_or_ge s.sp.val 16 with h | h
    · exact ⟨_, exec_call_ok h, rfl⟩
    · exact ⟨_, exec_call_fault (by omega), rfl⟩
  | drw x y n =>
    by_cases h : n = 0 ∨ s.i.toNat + n.toNat - 1 ≤ 0xFFF
    · exact ⟨_, exec_drw_ok h, rfl⟩
    · obtain ⟨hn, hr⟩ := not_or.1 h
      exact ⟨_, exec_drw_fault hn (Nat.lt_of_not_le hr), rfl⟩
  | skp x =>
    rcases Nat.lt_or_ge 15 (s.getV x).toNat with h | h
    · exact ⟨_, exec_skp_fault h, rfl⟩
    · exact ⟨_, exec_skp_ok (k := ⟨(s.getV x).toNat, by omega⟩) rfl, by simp⟩
  | sknp x =>
    rcases Nat.lt_or_ge 15 (s.getV x).toNat with h | h
    · exact ⟨_, exec_sknp_fault h, rfl⟩
    · exact ⟨_, exec_sknp_ok (k := ⟨(s.getV x).toNat, by omega⟩) rfl, by simp⟩
  | ldVxK x =>
    cases h : s.lowestKey with
    | none => exact ⟨_, exec_ldVxK_wait h, rfl⟩
    | some k => exact ⟨_, exec_ldVxK_key h, rfl⟩
  | ldB x =>
    rcases Nat.lt_or_ge 0xFFF (s.i.toNat + 2) with h | h
    · exact ⟨_, exec_ldB_fault h, rfl⟩
    · exact ⟨_, exec_ldB_ok h, rfl⟩
  | storeRegs x =>
    rcases Nat.lt_or_ge 0xFFF (s.i.toNat + x.val) with h | h
    · exact ⟨_, exec_storeRegs_fault h, rfl⟩
    · exact ⟨_, exec_storeRegs_ok h, rfl⟩
  | loadRegs x =>
    rcases Nat.lt_or_ge 0xFFF (s.i.toNat + x.val) with h | h
    · exact ⟨_, exec_loadRegs_fault h, rfl⟩
    · exact ⟨_, exec_loadRegs_ok h, rfl⟩
  | seImm | sneImm | seReg | sneReg => exact ⟨_, rfl, State.skipIf_key ..⟩
  | _ => exact ⟨_, rfl, rfl⟩

theorem exec_key {i : Instr} {s t : State} (h : exec i s = .next t) : t.key = s.key := by
  obtain ⟨u, hu, hkey⟩ := exec_answers_same_key i s
  cases hu.symm.trans h
  exact hkey

/-- No cycle writes a key (10_state.md rules R16, R28). -/
theorem step_key {s t : State} (h : step s = .next t) : t.key = s.key := by
  obtain ⟨-, rfl⟩ | ⟨-, -, rfl⟩ | ⟨-, w, u, -, hu, rfl⟩ := runCycle_next h
  · rfl
  · rfl
  · rw [State.endCycle_key, exec_key hu]

/-- Settles O54: SetKeys is the one update `setKey`, and a cycle's keys are those its operation leaves. -/
theorem setKeysWritesOnlyKeys : Obligations.SetKeysWritesOnlyKeys :=
  ⟨fun k s => ⟨s.setKey k, rfl, fun _ => rfl, rfl, keepsAllBut_setKey s k⟩, fun _ _ h => step_key h⟩

/-! ### ReadVideo and ReadSound -/

/-- Element `cy*64 + cx` of the display is pixel (cx, cy) (10_state.md rule R17). -/
theorem vidElem_rowMajor (p : Screen) {cx : Nat} (cy : Nat) (h : cx < 64) :
    vidElem p (cy * 64 + cx) = pixel p cx cy := by
  have hcol : (cy * 64 + cx) % Config.displayW = cx := by unfold Config.displayW; omega
  have hrow : (cy * 64 + cx) / Config.displayW = cy := by unfold Config.displayW; omega
  rw [vidElem, hcol, hrow]

theorem readVideo_length (s : State) : (readVideo s).length = 2048 := by
  rw [readVideo, List.length_map, List.length_range]

theorem readVideo_getElem? (s : State) {k : Nat} (h : k < 2048) :
    (readVideo s)[k]? = some (videoWord (vidElem s.vid k)) := by
  rw [readVideo, List.getElem?_map, List.getElem?_range h, Option.map_some]

theorem tone_iff (s : State) : tone s = true ↔ s.st ≠ 0 := bne_iff_ne

/-- Settles O55: pixel (cx, cy) stands at `cy*64 + cx` of the row-major list, and both reads answer the state itself. -/
theorem hostReadsShowTheState : Obligations.HostReadsShowTheState := by
  refine ⟨fun s => ⟨rfl, readVideo_length s, fun cx cy hx hy => ?_⟩, fun s => ⟨rfl, tone_iff s⟩⟩
  rw [readVideo_getElem? s (by omega), vidElem_rowMajor s.vid cy hx]
  rfl

end Sys2Proof.Machine
end

section
/-! The primary selector and what it decides alone (30_encoding.md rules R61, R62, R66, R71). -/

namespace Sys2Proof

/-! ### The fields of format XYN: the decoder reads back what the encoder placed -/

@[simp] theorem fieldOp_formXyn (op : BitVec 4) (x y : RegIdx) (n : BitVec 4) : fieldOp (formXyn op x y n) = op :=
  (BitVec.extractLsb'_append_eq_of_le (by decide)).trans BitVec.extractLsb'_append_eq_left

@[simp] theorem fieldX_formXyn (op : BitVec 4) (x y : RegIdx) (n : BitVec 4) : fieldX (formXyn op x y n) = x :=
  congrArg BitVec.toFin <|
    (BitVec.extractLsb'_append_eq_of_le (by decide)).trans BitVec.extractLsb'_append_eq_right

@[simp] theorem fieldY_formXyn (op : BitVec 4) (x y : RegIdx) (n : BitVec 4) : fieldY (formXyn op x y n) = y :=
  congrArg BitVec.toFin <|
    (BitVec.extractLsb'_append_eq_of_add_le (by decide)).trans BitVec.extractLsb'_append_eq_left

@[simp] theorem fieldN_formXyn (op : BitVec 4) (x y : RegIdx) (n : BitVec 4) : fieldN (formXyn op x y n) = n :=
  (BitVec.extractLsb'_append_eq_of_add_le (by decide)).trans BitVec.extractLsb'_append_eq_right

/-! ### Dispatch on the primary selector alone -/

/-- The primaries without a secondary selector, one by one. -/
theorem primary_cases_of_no_secondary {op : BitVec 4} (h : op ∉ [0x0#4, 0x8#4, 0xE#4, 0xF#4]) :
    op = 0x1 ∨ op = 0x2 ∨ op = 0x3 ∨ op = 0x4 ∨ op = 0x5 ∨ op = 0x6 ∨ op = 0x7 ∨ op = 0x9 ∨
      op = 0xA ∨ op = 0xB ∨ op = 0xC ∨ op = 0xD := by
  revert op; decide

/-- At each primary without a secondary selector the decoder has one branch, and the rest of the word fills only
that branch's operands, which the table row does not show. -/
theorem rowOf_decodeWord_eq_of_fieldOp_eq {w w' : Word} (heq : fieldOp w = fieldOp w')
    (h : fieldOp w ∉ [0x0#4, 0x8#4, 0xE#4, 0xF#4]) : rowOf (decodeWord w) = rowOf (decodeWord w') := by
  rcases primary_cases_of_no_secondary h with hop | hop | hop | hop | hop | hop | hop | hop | hop | hop | hop | hop <;>
    simp [decodeWord, ← heq, hop, rowOf]

/-- 5xyN is 5xy0 for every N. -/
theorem decodeWord_formXyn_five (x y : RegIdx) (n : BitVec 4) : decodeWord (formXyn 0x5 x y n) = .seReg x y := by
  simp [decodeWord]

/-- 9xyN is 9xy0 for every N. -/
theorem decodeWord_formXyn_nine (x y : RegIdx) (n : BitVec 4) : decodeWord (formXyn 0x9 x y n) = .sneReg x y := by
  simp [decodeWord]

/-- Settles O6: the row follows from the primary's one branch; 5xyN, 9xyN and their encodings are read back field by
field from format XYN. -/
theorem primarySelectorAloneDecides : Obligations.PrimarySelectorAloneDecides :=
  ⟨fun _ _ heq h => rowOf_decodeWord_eq_of_fieldOp_eq heq h,
    fun x y n => ⟨decodeWord_formXyn_five x y n, decodeWord_formXyn_nine x y n⟩,
    fun x y => ⟨fieldN_formXyn 0x5 x y 0, fieldN_formXyn 0x9 x y 0⟩⟩

end Sys2Proof
end

section
/-! The arithmetic and register operations: what each writes and leaves, and the words of each
(40_arithmetic_register.md rules R100 to R110; R113 for VF). -/

namespace Sys2Proof

open Sys2Proof.Machine

/-! ### The words of a table row: the bits under the mask decide the fields they cover -/

/-- A field that the mask covers whole is the same in the word as in the match. -/
theorem extractLsb'_eq_of_mask {w mask value : Word} {start len : Nat}
    (hcover : mask.extractLsb' start len = BitVec.allOnes len) (h : w &&& mask = value) :
    w.extractLsb' start len = value.extractLsb' start len := by
  rw [← h, BitVec.extractLsb'_and, hcover, BitVec.and_allOnes]

/-- A row whose primary selector decides alone (30_encoding.md rule R66). -/
theorem encodedAs_primary {value : Word} {mk : Word → Instr} (op : BitVec 4) (hop : fieldOp value = op)
    (hdecode : ∀ w, fieldOp w = op → decodeWord w = mk w) : EncodedAs 0xF000 value mk :=
  fun w h => hdecode w ((extractLsb'_eq_of_mask (by decide) h).trans hop)

theorem decodeWord_of_fieldOp_eight {w : Word} (h : fieldOp w = 0x8) : decodeWord w = decode8 w := by
  simp [decodeWord, h]

/-- A row of primary 0x8, which the low nibble decides (30_encoding.md rule R68). -/
theorem encodedAs_eight {value : Word} {mk : Word → Instr} (sel : BitVec 4) (hop : fieldOp value = 0x8)
    (hsel : fieldN value = sel) (hdecode : ∀ w, fieldN w = sel → decode8 w = mk w) : EncodedAs 0xF00F value mk := by
  intro w h
  have hw : fieldOp w = 0x8 := (extractLsb'_eq_of_mask (by decide) h).trans hop
  have hn : fieldN w = sel := (extractLsb'_eq_of_mask (by decide) h).trans hsel
  rw [decodeWord_of_fieldOp_eight hw, hdecode w hn]

/-! ### The frame of a register write, with PC advanced -/

theorem frame_advance_setV (s : State) (x : RegIdx) (b : Byte) :
    RegsButKept [x] s (s.advance.setV x b) ∧ KeepsAllBut [.regs] s (s.advance.setV x b) :=
  ⟨fun r hr => State.getV_setV_ne s.advance x r b (List.ne_of_not_mem_cons hr), by simp [keepsAllBut_iff]⟩

theorem frame_advance_setResultFlag (s : State) (x : RegIdx) (b : Byte) (f : Bool) :
    RegsButKept [x, 15] s (s.advance.setResultFlag x b f) ∧
      KeepsAllBut [.regs] s (s.advance.setResultFlag x b f) := by
  refine ⟨fun r hr => ?_, by simp [keepsAllBut_iff]⟩
  obtain ⟨hx, hvf⟩ : r ≠ x ∧ r ≠ 15 := by simpa using hr
  simp [State.getV_setResultFlag, hx, hvf]

end Sys2Proof

namespace Sys2Proof.Machine

/-! ### The result-then-flag write, register by register (30_encoding.md rule R77) -/

@[simp] theorem State.getV_setResultFlag_vf (s : State) (x : RegIdx) (b : Byte) (f : Bool) :
    (s.setResultFlag x b f).getV 15 = if f then 1 else 0 := State.getV_setFlag_vf _ f

theorem State.getV_setResultFlag_result (s : State) {x : RegIdx} (b : Byte) (f : Bool) (h : x ≠ 15) :
    (s.setResultFlag x b f).getV x = b := by simp [State.getV_setResultFlag, h]

/-! ### The arithmetic in natural numbers and integers (R112) -/

/-- A difference modulo 256, in integers. -/
theorem toNat_sub_emod (a b : Byte) : ((a - b).toNat : Int) = ((a.toNat : Int) - b.toNat) % 256 := by
  rw [BitVec.toNat_sub]
  have := b.isLt
  omega

theorem toNat_lowBitFlag (v : Byte) : (if lowBitFlag v then 1 else 0 : Byte).toNat = v.toNat % 2 := by
  have hbit : lowBitFlag v = decide (v.toNat % 2 = 1) := Nat.testBit_zero v.toNat
  rcases Nat.mod_two_eq_zero_or_one v.toNat with h | h <;> simp [hbit, h]

/-- Bit 7 of a byte is all that is above its low seven bits. -/
theorem toNat_highBitFlag (v : Byte) : (if highBitFlag v then 1 else 0 : Byte).toNat = v.toNat / 128 := by
  have hbit : highBitFlag v = decide (v.toNat / 128 % 2 = 1) := Nat.testBit_eq_decide_div_mod_eq
  have hlt : v.toNat / 128 < 2 := by omega
  rcases (show v.toNat / 128 = 0 ∨ v.toNat / 128 = 1 by omega) with h | h <;> simp [hbit, h]

/-! ### The obligations -/

/-- Settles O7: each operation is one write of Vx with PC advanced. -/
theorem immediateLoadAndAdd : Obligations.ImmediateLoadAndAdd := by
  refine ⟨fun x kk s => ⟨_, rfl, rfl, State.getV_setV_same _ x kk, frame_advance_setV s x _⟩,
    fun x kk s => ⟨_, rfl, rfl, ?_, frame_advance_setV s x _⟩,
    encodedAs_primary 0x6 rfl fun w h => by simp [decodeWord, h],
    encodedAs_primary 0x7 rfl fun w h => by simp [decodeWord, h]⟩
  rw [State.getV_setV_same, BitVec.toNat_add]

/-- Settles O8: each operation is one write of Vx with PC advanced, its bits those of the logical operation. -/
theorem copyAndLogic : Obligations.CopyAndLogic := by
  refine ⟨fun x y s => ⟨_, rfl, rfl, State.getV_setV_same _ x _, frame_advance_setV s x _⟩,
    fun x y s => ⟨_, rfl, rfl, fun b => ?_, frame_advance_setV s x _⟩,
    fun x y s => ⟨_, rfl, rfl, fun b => ?_, frame_advance_setV s x _⟩,
    fun x y s => ⟨_, rfl, rfl, fun b => ?_, frame_advance_setV s x _⟩,
    encodedAs_eight 0x0 rfl rfl fun w h => by simp [decode8, h],
    encodedAs_eight 0x1 rfl rfl fun w h => by simp [decode8, h],
    encodedAs_eight 0x2 rfl rfl fun w h => by simp [decode8, h],
    encodedAs_eight 0x3 rfl rfl fun w h => by simp [decode8, h]⟩
  · rw [State.getV_setV_same, BitVec.getLsbD_or]
  · rw [State.getV_setV_same, BitVec.getLsbD_and]
  · rw [State.getV_setV_same, BitVec.getLsbD_xor]

/-- Settles O9: the sum is written to Vx first and the carry to VF last. -/
theorem addSetsCarry : Obligations.AddSetsCarry := by
  refine ⟨fun x y s => ⟨_, rfl, rfl, ?_, fun hx => ?_, frame_advance_setResultFlag s x _ _⟩,
    encodedAs_eight 0x4 rfl rfl fun w h => by simp [decode8, h]⟩
  · simp [carryFlag]
  · rw [State.getV_setResultFlag_result _ _ _ hx, BitVec.toNat_add]

/-- Settles O10: the difference is written to Vx first and the strict comparison to VF last; 8xy7 exchanges the
operands. -/
theorem subtractionsSetStrictFlag : Obligations.SubtractionsSetStrictFlag := by
  refine ⟨fun x y s => ⟨_, rfl, rfl, ?_, fun hx => ?_, frame_advance_setResultFlag s x _ _⟩,
    fun x y s => ⟨_, rfl, rfl, ?_, fun hx => ?_, frame_advance_setResultFlag s x _ _⟩,
    encodedAs_eight 0x5 rfl rfl fun w h => by simp [decode8, h],
    encodedAs_eight 0x7 rfl rfl fun w h => by simp [decode8, h]⟩
  · simp [greaterFlag]
  · rw [State.getV_setResultFlag_result _ _ _ hx, toNat_sub_emod]
  · simp [greaterFlag]
  · rw [State.getV_setResultFlag_result _ _ _ hx, toNat_sub_emod]

/-- Settles O11: the shifted Vx is written first and the bit shifted out of the old Vx to VF last. -/
theorem shiftsSetShiftedOutBit : Obligations.ShiftsSetShiftedOutBit := by
  refine ⟨fun x y s => ⟨_, rfl, rfl, ?_, fun hx => ?_, frame_advance_setResultFlag s x _ _⟩,
    fun x y s => ⟨_, rfl, rfl, ?_, fun hx => ?_, frame_advance_setResultFlag s x _ _⟩,
    encodedAs_eight 0x6 rfl rfl fun w h => by simp [decode8, h],
    encodedAs_eight 0xE rfl rfl fun w h => by simp [decode8, h]⟩
  · rw [State.getV_setResultFlag_vf, toNat_lowBitFlag]
  · rw [State.getV_setResultFlag_result _ _ _ hx, BitVec.toNat_ushiftRight, Nat.shiftRight_eq_div_pow]
  · rw [State.getV_setResultFlag_vf, toNat_highBitFlag]
  · rw [State.getV_setResultFlag_result _ _ _ hx, BitVec.toNat_shiftLeft, Nat.shiftLeft_eq]

end Sys2Proof.Machine
end

section
/-! The control-flow operations that move PC and nothing else: no-ops, jumps and skips (41_control_flow.md rules R120,
R122, R124 to R128, R130; 30_encoding.md rule R72 for unmatched words). -/

namespace Sys2Proof.Machine

/-! ### The frame of an operation that writes PC alone -/

theorem keepsAllBut_advance_setPc (s : State) (a : Word) : KeepsAllBut [] s (s.advance.setPc a) := by
  simp [keepsAllBut_iff]

theorem keepsAllBut_advance (s : State) : KeepsAllBut [] s s.advance := keepsAllBut_advance_setPc s (s.pc + 2)

theorem keepsAllBut_advance_skipIf (s : State) (c : Bool) : KeepsAllBut [] s (s.advance.skipIf c) := by
  simp [keepsAllBut_iff]

/-! ### The no-ops, in step 4 and over the whole cycle -/

/-- A cycle whose operation answers a next state ends in that state, ticked unless it faulted. -/
theorem runCycle_of_next {run : Instr → State → Host.Outcome State Fault Refusal} {s t : State} {w : Word}
    (hrun : Running s) (hfetch : s.fetch = some w) (hnext : run (decodeWord w) s = .next t) :
    runCycle run s = .next t.endCycle := by
  simp [runCycle, hrun, hfetch, hnext]

/-- A running core's cycle of an operation that only advances PC. -/
theorem step_of_exec_advance {s : State} {w : Word} (hrun : Running s) (hfetch : s.fetch = some w)
    (hnext : exec (decodeWord w) s = .next s.advance) :
    ∃ t, step s = .next t ∧ t.pc = s.pc + 2 ∧ Running t ∧ t.dt.toNat = s.dt.toNat - 1 ∧
      t.st.toNat = s.st.toNat - 1 ∧ KeepsAllBut [.delay, .sound] s t := by
  have hflt : s.flt = 0 := hrun
  refine ⟨_, runCycle_of_next hrun hfetch hnext, State.endCycle_pc _, ?_, ?_, ?_, ?_⟩
  · rwa [Running, State.endCycle_flt]
  · simp [hflt, tickTimer_toNat]
  · simp [hflt, tickTimer_toNat]
  · simp [keepsAllBut_iff]

/-- Every word 0x0nnn but the two that the whole word selects is 0nnn (30_encoding.md rule R67). -/
theorem decodeWord_of_primary_zero {w : Word} (hop : w &&& 0xF000 = 0) (hcls : w ≠ 0x00E0) (hret : w ≠ 0x00EE) :
    decodeWord w = .sys (fieldNnn w) := by
  have hfield : fieldOp w = 0x0 := extractLsb'_eq_of_mask (by decide) hop
  rw [decodeWord, if_pos hfield, decode0, if_neg hcls, if_neg hret]

/-- Settles O14: both operations are `advance` alone, so the cycle's only further effect is its tick. -/
theorem noOpsOnlyAdvance : Obligations.NoOpsOnlyAdvance := by
  refine ⟨fun _ s => ⟨_, rfl, rfl, keepsAllBut_advance s⟩, fun nnn s hrun hsys => ?_,
    fun _ hop hcls hret => decodeWord_of_primary_zero hop hcls hret,
    fun _ s => ⟨_, rfl, rfl, keepsAllBut_advance s⟩⟩
  obtain ⟨w, hfetch, hdecode⟩ := Option.map_eq_some_iff.1 hsys
  exact step_of_exec_advance hrun hfetch (by rw [hdecode]; rfl)

/-! ### The jumps -/

theorem zext16_toNat (nnn : Imm12) : (zext16 nnn).toNat = nnn.toNat :=
  BitVec.toNat_setWidth_of_le (by decide)

/-- A byte and twelve bits add up to 0x10FE at most, so the sum is exact in the sixteen bits of PC. -/
theorem jumpOffset_toNat (v0 : Byte) (nnn : Imm12) : (jumpOffset v0 nnn).toNat = v0.toNat + nnn.toNat := by
  rw [jumpOffset, BitVec.toNat_ofNat]
  exact Nat.mod_eq_of_lt (by omega)

/-- Settles O16: each jump is one write of PC, and neither target is reduced. -/
theorem jumpsSetPc : Obligations.JumpsSetPc :=
  ⟨fun nnn s => ⟨_, rfl, zext16_toNat nnn, keepsAllBut_advance_setPc s _⟩,
    fun nnn s => ⟨_, rfl, jumpOffset_toNat (s.getV 0) nnn, keepsAllBut_advance_setPc s _⟩,
    encodedAs_primary 0x1 rfl fun w h => by simp [decodeWord, h],
    encodedAs_primary 0xB rfl fun w h => by simp [decodeWord, h]⟩

/-! ### The skips: PC + 4 when the condition holds, else PC + 2 (rule R130) -/

theorem pc_advance_skipIf (s : State) (c : Bool) :
    (s.advance.skipIf c).pc = if c then s.pc + 4 else s.pc + 2 := by
  rw [State.skipIf_pc, State.advance_pc, BitVec.add_assoc]
  rfl

/-- The skip on equal bytes. -/
theorem pc_advance_skipIf_beq (s : State) (a b : Byte) :
    (s.advance.skipIf (a == b)).pc = if a.toNat = b.toNat then s.pc + 4 else s.pc + 2 := by
  simp only [pc_advance_skipIf, beq_iff_eq, BitVec.toNat_inj]

/-- The skip on unequal bytes, its exact complement. -/
theorem pc_advance_skipIf_bne (s : State) (a b : Byte) :
    (s.advance.skipIf (a != b)).pc = if a.toNat = b.toNat then s.pc + 2 else s.pc + 4 := by
  simp only [pc_advance_skipIf, bne_iff_ne, ne_eq, ite_not, BitVec.toNat_inj]

/-- Settles O20: 3xkk is the skip on equal bytes and 4xkk the skip on unequal ones, of Vx and kk. -/
theorem skipsOnImmediate : Obligations.SkipsOnImmediate :=
  ⟨fun x kk s => ⟨_, rfl, pc_advance_skipIf_beq s (s.getV x) kk, keepsAllBut_advance_skipIf s _⟩,
    fun x kk s => ⟨_, rfl, pc_advance_skipIf_bne s (s.getV x) kk, keepsAllBut_advance_skipIf s _⟩,
    encodedAs_primary 0x3 rfl fun w h => by simp [decodeWord, h],
    encodedAs_primary 0x4 rfl fun w h => by simp [decodeWord, h]⟩

/-- Settles O21: 5xy0 is the skip on equal bytes and 9xy0 the skip on unequal ones, of Vx and Vy; the primary selector
alone decides, so the low nibble plays no part. -/
theorem skipsOnRegisters : Obligations.SkipsOnRegisters :=
  ⟨fun x y s => ⟨_, rfl, pc_advance_skipIf_beq s (s.getV x) (s.getV y), keepsAllBut_advance_skipIf s _⟩,
    fun x y s => ⟨_, rfl, pc_advance_skipIf_bne s (s.getV x) (s.getV y), keepsAllBut_advance_skipIf s _⟩,
    encodedAs_primary 0x5 rfl fun w h => by simp [decodeWord, h],
    encodedAs_primary 0x9 rfl fun w h => by simp [decodeWord, h]⟩

end Sys2Proof.Machine
end

section
/-! The clear of the display (42_display.md rule R140), and what the host then reads (10_state.md rules R18, R29). -/

namespace Sys2Proof.Machine

@[simp] theorem pixel_clearScreen (cx cy : Nat) : pixel clearScreen cx cy = false := by
  simp [pixel, clearScreen]

@[simp] theorem vidElem_clearScreen (k : Nat) : vidElem clearScreen k = false :=
  pixel_clearScreen _ _

/-- A display with every pixel off reads as zero words. -/
theorem readVideo_eq_replicate_zero {s : State} (hoff : ∀ k, k < 2048 → vidElem s.vid k = false) :
    readVideo s = List.replicate 2048 0 := by
  refine List.eq_replicate_iff.2 ⟨readVideo_length s, fun w hw => ?_⟩
  obtain ⟨k, hk, rfl⟩ := List.mem_map.1 hw
  rw [hoff k (List.mem_range.1 hk)]
  rfl

theorem keepsAllBut_advance_setVid (s : State) (p : Screen) : KeepsAllBut [.display] s (s.advance.setVid p) := by
  simp [keepsAllBut_iff]

/-- Settles O22: the operation is one write of the display, by the screen whose pixels are all off, with PC advanced. -/
theorem clearScreenTurnsPixelsOff : Obligations.ClearScreenTurnsPixelsOff :=
  have hoff : ∀ k, k < 2048 → vidElem clearScreen k = false := fun k _ => vidElem_clearScreen k
  ⟨fun s => ⟨s.advance.setVid clearScreen, rfl, rfl, hoff, readVideo_eq_replicate_zero hoff,
    keepsAllBut_advance_setVid s clearScreen⟩, rfl⟩

end Sys2Proof.Machine
end

section
/-! The immediate load of I (43_memory_index.md rule R150). -/

namespace Sys2Proof.Machine

theorem keepsAllBut_advance_setI (s : State) (a : Word) : KeepsAllBut [.index] s (s.advance.setI a) := by
  simp [keepsAllBut_iff]

/-- Settles O25: the operation is one write of I, by nnn zero-extended, with PC advanced. -/
theorem loadIndexImmediate : Obligations.LoadIndexImmediate :=
  ⟨fun nnn s => ⟨s.advance.setI (zext16 nnn), rfl, rfl, zext16_toNat nnn, keepsAllBut_advance_setI s (zext16 nnn)⟩,
    encodedAs_primary 0xA rfl fun w h => by simp [decodeWord, h]⟩

end Sys2Proof.Machine
end

section
/-! The latch after step 4 and the tick of step 5 (60_exceptions.md rules R200, R201; 44_timers_keys.md rule R176). -/

namespace Sys2Proof.Machine

/-! ### What an operation does to the latch -/

/-- Every operation answers, with the latch as it was where the fault table lists nothing, else with the listed fault
taken and nothing else done. -/
theorem exec_completes_or_faults (i : Instr) (s : State) : ∃ t, exec i s = .next t ∧
    ((faultOf i s = none ∧ t.flt = s.flt) ∨ ∃ c, faultOf i s = some c ∧ t = s.takeFault c) := by
  cases i with
  | ret =>
    by_cases h : s.sp = 0
    · exact ⟨_, exec_ret_fault (congrArg Fin.val h), .inr ⟨_, if_pos h, rfl⟩⟩
    · exact ⟨_, exec_ret_ok (Nat.pos_of_ne_zero (Fin.val_ne_of_ne h)), .inl ⟨if_neg h, rfl⟩⟩
  | call nnn =>
    by_cases h : s.sp = 16
    · exact ⟨_, exec_call_fault (congrArg Fin.val h), .inr ⟨_, if_pos h, rfl⟩⟩
    · have hsp : s.sp.val ≠ 16 := Fin.val_ne_of_ne h
      exact ⟨_, exec_call_ok (by omega), .inl ⟨if_neg h, rfl⟩⟩
  | drw x y n =>
    by_cases h : n = 0 ∨ s.i.toNat + n.toNat - 1 ≤ 0xFFF
    · have hno : ¬ (0 < n.toNat ∧ s.i.toNat + n.toNat - 1 > 0xFFF) := by
        rcases h with rfl | h
        · simp
        · omega
      exact ⟨_, exec_drw_ok h, .inl ⟨if_neg hno, rfl⟩⟩
    · obtain ⟨hn, hr⟩ := not_or.1 h
      have hpos : 0 < n.toNat := by bv_omega
      exact ⟨_, exec_drw_fault hn (Nat.lt_of_not_le hr), .inr ⟨_, if_pos ⟨hpos, Nat.lt_of_not_le hr⟩, rfl⟩⟩
  | skp x =>
    by_cases h : (s.getV x).toNat > 15
    · exact ⟨_, exec_skp_fault h, .inr ⟨_, if_pos h, rfl⟩⟩
    · exact ⟨_, exec_skp_ok (k := ⟨(s.getV x).toNat, by omega⟩) rfl, .inl ⟨if_neg h, State.skipIf_flt ..⟩⟩
  | sknp x =>
    by_cases h : (s.getV x).toNat > 15
    · exact ⟨_, exec_sknp_fault h, .inr ⟨_, if_pos h, rfl⟩⟩
    · exact ⟨_, exec_sknp_ok (k := ⟨(s.getV x).toNat, by omega⟩) rfl, .inl ⟨if_neg h, State.skipIf_flt ..⟩⟩
  | ldVxK x =>
    cases h : s.lowestKey with
    | none => exact ⟨_, exec_ldVxK_wait h, .inl ⟨rfl, rfl⟩⟩
    | some k => exact ⟨_, exec_ldVxK_key h, .inl ⟨rfl, rfl⟩⟩
  | ldB x =>
    by_cases h : s.i.toNat + 2 > 0xFFF
    · exact ⟨_, exec_ldB_fault h, .inr ⟨_, if_pos h, rfl⟩⟩
    · exact ⟨_, exec_ldB_ok (Nat.le_of_not_lt h), .inl ⟨if_neg h, rfl⟩⟩
  | storeRegs x =>
    by_cases h : s.i.toNat + x.val > 0xFFF
    · exact ⟨_, exec_storeRegs_fault h, .inr ⟨_, if_pos h, rfl⟩⟩
    · exact ⟨_, exec_storeRegs_ok (Nat.le_of_not_lt h), .inl ⟨if_neg h, rfl⟩⟩
  | loadRegs x =>
    by_cases h : s.i.toNat + x.val > 0xFFF
    · exact ⟨_, exec_loadRegs_fault h, .inr ⟨_, if_pos h, rfl⟩⟩
    · exact ⟨_, exec_loadRegs_ok (Nat.le_of_not_lt h), .inl ⟨if_neg h, rfl⟩⟩
  | seImm | sneImm | seReg | sneReg => exact ⟨_, rfl, .inl ⟨rfl, State.skipIf_flt ..⟩⟩
  | _ => exact ⟨_, rfl, .inl ⟨rfl, rfl⟩⟩

/-- An operation that leaves a running core halted has taken a fault and done nothing else. -/
theorem exec_eq_takeFault_of_halted {i : Instr} {s t : State} (hrun : Running s) (hnext : exec i s = .next t)
    (hhalt : Halted t) : ∃ c, faultOf i s = some c ∧ t = s.takeFault c := by
  obtain ⟨u, hu, hcase⟩ := exec_completes_or_faults i s
  cases hu.symm.trans hnext
  rcases hcase with ⟨-, hflt⟩ | hfault
  · exact absurd (hflt.trans hrun) hhalt
  · exact hfault

/-! ### The end of a cycle -/

theorem State.endCycle_of_running {s : State} (h : Running s) : s.endCycle = s.tick := if_pos h

theorem State.endCycle_of_halted {s : State} (h : Halted s) : s.endCycle = s := if_neg h

theorem keepsAllBut_tick (s : State) : KeepsAllBut [.delay, .sound] s s.tick := by
  simp [keepsAllBut_iff]

/-- Settles O33, along the three ends a cycle can have: a halted core's and a fetch fault leave the timers, and an
operation's ends with the tick unless it faulted, and then it left the timers too. -/
theorem everyCompletedCycleTicks : Obligations.EveryCompletedCycleTicks := by
  intro s t h
  rcases runCycle_next h with ⟨hhalt, rfl⟩ | ⟨-, -, rfl⟩ | ⟨hrun, w, u, hfetch, hnext, rfl⟩
  · exact ⟨fun _ => ⟨rfl, rfl⟩, fun hrun => absurd hrun hhalt⟩
  · exact ⟨fun _ => ⟨rfl, rfl⟩, fun hrun => (Fault.code_ne_zero .fetchRange hrun).elim⟩
  · by_cases hu : Running u
    · rw [State.endCycle_of_running hu]
      exact ⟨fun hhalt => absurd hu hhalt, fun _ =>
        ⟨w, u, hfetch, hnext, tickTimer_toNat u.dt, tickTimer_toNat u.st, rfl, keepsAllBut_tick u⟩⟩
    · obtain ⟨c, -, rfl⟩ := exec_eq_takeFault_of_halted hrun hnext hu
      rw [State.endCycle_of_halted hu]
      exact ⟨fun _ => ⟨rfl, rfl⟩, fun hrun' => absurd hrun' hu⟩

end Sys2Proof.Machine
end

section
/-! The timer operations: in step 4, over the whole cycle, and their words (44_timers_keys.md rules R170 to R172). -/

namespace Sys2Proof

open Sys2Proof.Machine

theorem decodeWord_of_fieldOp_fifteen {w : Word} (h : fieldOp w = 0xF) : decodeWord w = decodeF w := by
  simp [decodeWord, h]

/-- A row of primary 0xF, which the low byte decides (30_encoding.md rule R70). -/
theorem encodedAs_fifteen {value : Word} {mk : Word → Instr} (sel : Byte) (hop : fieldOp value = 0xF)
    (hsel : fieldKk value = sel) (hdecode : ∀ w, fieldKk w = sel → decodeF w = mk w) :
    EncodedAs 0xF0FF value mk := by
  intro w h
  have hw : fieldOp w = 0xF := (extractLsb'_eq_of_mask (by decide) h).trans hop
  have hkk : fieldKk w = sel := (extractLsb'_eq_of_mask (by decide) h).trans hsel
  rw [decodeWord_of_fieldOp_fifteen hw, hdecode w hkk]

end Sys2Proof

namespace Sys2Proof.Machine

theorem keepsAllBut_advance_setDt (s : State) (b : Byte) : KeepsAllBut [.delay] s (s.advance.setDt b) := by
  simp [keepsAllBut_iff]

theorem keepsAllBut_advance_setSt (s : State) (b : Byte) : KeepsAllBut [.sound] s (s.advance.setSt b) := by
  simp [keepsAllBut_iff]

/-- A running core's cycle of an operation that leaves the latch ends in the tick of the operation's result. -/
theorem step_eq_tick_of_exec {i : Instr} {s t : State} (hrun : Running s) (hdecode : s.fetch.map decodeWord = some i)
    (hnext : exec i s = .next t) (hflt : t.flt = s.flt) : step s = .next t.tick := by
  obtain ⟨w, hfetch, rfl⟩ := Option.map_eq_some_iff.1 hdecode
  rw [← State.endCycle_of_running (hflt.trans hrun)]
  exact runCycle_of_next hrun hfetch hnext

/-- Settles O32: each operation is one write with PC advanced, and its cycle ends in the tick of that write's result,
so Fx07 has read DT before the tick, and the tick falls on the value Fx15 or Fx18 set. -/
theorem timerOperations : Obligations.TimerOperations :=
  ⟨fun x s => ⟨_, rfl, rfl, State.getV_setV_same _ x s.dt, frame_advance_setV s x s.dt⟩,
    fun x s => ⟨_, rfl, rfl, rfl, keepsAllBut_advance_setDt s (s.getV x)⟩,
    fun x s => ⟨_, rfl, rfl, rfl, keepsAllBut_advance_setSt s (s.getV x)⟩,
    fun x s hrun hdecode => ⟨_, step_eq_tick_of_exec hrun hdecode rfl rfl,
      State.getV_setV_same s.advance x s.dt, tickTimer_toNat s.dt⟩,
    fun x s hrun hdecode => ⟨_, step_eq_tick_of_exec hrun hdecode rfl rfl,
      tickTimer_toNat (s.getV x), tickTimer_toNat s.st⟩,
    fun x s hrun hdecode => ⟨_, step_eq_tick_of_exec hrun hdecode rfl rfl,
      tickTimer_toNat (s.getV x), tickTimer_toNat s.dt⟩,
    encodedAs_fifteen 0x07 rfl rfl fun w h => by simp [decodeF, h],
    encodedAs_fifteen 0x15 rfl rfl fun w h => by simp [decodeF, h],
    encodedAs_fifteen 0x18 rfl rfl fun w h => by simp [decodeF, h]⟩

end Sys2Proof.Machine
end

section
/-! The decoder and the encoder as inverses of each other, and the decoder against the table
(30_encoding.md sections 1 to 4, opcode_table.json). -/

namespace Sys2Proof

open Sys2Proof.Machine

/-! ### The fields of formats NNN and XKK: the decoder reads back what the encoder placed -/

@[simp] theorem fieldOp_formNnn (op : BitVec 4) (nnn : Imm12) : fieldOp (formNnn op nnn) = op :=
  BitVec.extractLsb'_append_eq_left

@[simp] theorem fieldNnn_formNnn (op : BitVec 4) (nnn : Imm12) : fieldNnn (formNnn op nnn) = nnn :=
  BitVec.extractLsb'_append_eq_right

@[simp] theorem fieldOp_formXkk (op : BitVec 4) (x : RegIdx) (kk : Byte) : fieldOp (formXkk op x kk) = op :=
  (BitVec.extractLsb'_append_eq_of_le (by decide)).trans BitVec.extractLsb'_append_eq_left

@[simp] theorem fieldX_formXkk (op : BitVec 4) (x : RegIdx) (kk : Byte) : fieldX (formXkk op x kk) = x :=
  congrArg BitVec.toFin <|
    (BitVec.extractLsb'_append_eq_of_le (by decide)).trans BitVec.extractLsb'_append_eq_right

@[simp] theorem fieldKk_formXkk (op : BitVec 4) (x : RegIdx) (kk : Byte) : fieldKk (formXkk op x kk) = kk :=
  BitVec.extractLsb'_append_eq_right

/-! ### The other way: a word is its fields, laid out in any of the three formats (R61, R62) -/

theorem formNnn_fields (w : Word) : formNnn (fieldOp w) (fieldNnn w) = w :=
  (BitVec.extractLsb'_append_extractLsb'_eq_extractLsb' rfl).trans BitVec.extractLsb'_eq_self

theorem op_append_x_eq_highByte (w : Word) : fieldOp w ++ regBits (fieldX w) = highByte w :=
  BitVec.extractLsb'_append_extractLsb'_eq_extractLsb' rfl

theorem y_append_n_eq_fieldKk (w : Word) : regBits (fieldY w) ++ fieldN w = fieldKk w :=
  BitVec.extractLsb'_append_extractLsb'_eq_extractLsb' rfl

/-- The two bytes of a word are the word (R44). -/
theorem wordOfBytes_highByte_lowByte (w : Word) : wordOfBytes (highByte w) (lowByte w) = w :=
  (BitVec.extractLsb'_append_extractLsb'_eq_extractLsb' rfl).trans BitVec.extractLsb'_eq_self

theorem formXkk_fields (w : Word) : formXkk (fieldOp w) (fieldX w) (fieldKk w) = w := by
  rw [formXkk, op_append_x_eq_highByte]
  exact wordOfBytes_highByte_lowByte w

theorem formXyn_fields (w : Word) : formXyn (fieldOp w) (fieldX w) (fieldY w) (fieldN w) = w := by
  rw [formXyn, y_append_n_eq_fieldKk]
  exact formXkk_fields w

/-! ### The unmatched words (R73) -/

/-- The table of unmatched words, in terms of the decoder's fields. -/
theorem isUnmatchedWord_iff {w : Word} : isUnmatchedWord w = true ↔
    (fieldOp w = 0x8 ∧ fieldN w ∈ ([0x8, 0x9, 0xA, 0xB, 0xC, 0xD, 0xF] : List (BitVec 4))) ∨
    (fieldOp w = 0xE ∧ fieldKk w ∉ ([0x9E, 0xA1] : List Byte)) ∨
    (fieldOp w = 0xF ∧ fieldKk w ∉ ([0x07, 0x0A, 0x15, 0x18, 0x1E, 0x29, 0x33, 0x55, 0x65] : List Byte)) := by
  simp only [isUnmatchedWord, fieldOp, fieldN, fieldKk, Bool.or_eq_true, Bool.and_eq_true, beq_iff_eq,
    Bool.not_eq_true', List.contains_eq_mem, decide_eq_true_iff, decide_eq_false_iff_not, or_assoc]

/-- The low nibbles of the table are those that no row of primary 0x8 names. -/
theorem nibble_unmatched_iff {n : BitVec 4} : n ∈ ([0x8, 0x9, 0xA, 0xB, 0xC, 0xD, 0xF] : List (BitVec 4)) ↔
    n ∉ ([0x0, 0x1, 0x2, 0x3, 0x4, 0x5, 0x6, 0x7, 0xE] : List (BitVec 4)) := by
  revert n; decide

theorem decodeWord_of_fieldOp_fourteen {w : Word} (h : fieldOp w = 0xE) : decodeWord w = decodeE w := by
  simp [decodeWord, h]

/-- An unmatched word fails every test of its primary's secondary selector. -/
theorem decodeWord_of_isUnmatchedWord {w : Word} (h : isUnmatchedWord w = true) : decodeWord w = .unmatched w := by
  rcases isUnmatchedWord_iff.1 h with ⟨hop, hn⟩ | ⟨hop, hkk⟩ | ⟨hop, hkk⟩
  · rw [nibble_unmatched_iff] at hn
    simp only [List.mem_cons, List.not_mem_nil, or_false, not_or] at hn
    simp only [decodeWord_of_fieldOp_eight hop, decode8, hn, if_false]
  · simp only [List.mem_cons, List.not_mem_nil, or_false, not_or] at hkk
    simp only [decodeWord_of_fieldOp_fourteen hop, decodeE, hkk, if_false]
  · simp only [List.mem_cons, List.not_mem_nil, or_false, not_or] at hkk
    simp only [decodeWord_of_fieldOp_fifteen hop, decodeF, hkk, if_false]

/-! ### Decode after encode -/

/-- A 0nnn is its own decoding unless its word is one of the two that the whole word selects (R67). -/
theorem decodeWord_formNnn_zero {nnn : Imm12} (hcls : nnn ≠ 0x0E0) (hret : nnn ≠ 0x0EE) :
    decodeWord (formNnn 0x0 nnn) = .sys nnn := by
  have hne (v : Word) (h : nnn ≠ fieldNnn v) : formNnn 0x0 nnn ≠ v := fun e => h (by rw [← e, fieldNnn_formNnn])
  rw [decodeWord_of_primary_zero (formNnn_op 0x0 nnn) (hne _ hcls) (hne _ hret), fieldNnn_formNnn]

/-- The encoder places the selectors that the decoder tests, and the decoder reads the operands back. -/
theorem decodeWord_encode {i : Instr} (h : i.wf = true) : decodeWord (encode i) = i := by
  cases i with
  | sys nnn =>
    obtain ⟨hcls, hret⟩ : nnn ≠ 0x0E0 ∧ nnn ≠ 0x0EE := by simpa [Instr.wf] using h
    exact decodeWord_formNnn_zero hcls hret
  | unmatched w => exact decodeWord_of_isUnmatchedWord h
  | cls | ret => rfl
  | jp | call | ldI | jpV0 => simp [encode, decodeWord]
  | seImm | sneImm | ldImm | addImm | rnd => simp [encode, decodeWord]
  | seReg | sneReg | drw => simp [encode, decodeWord]
  | ldReg | orReg | andReg | xorReg | addReg | subReg | shr | subn | shl =>
    simp [encode, decodeWord_of_fieldOp_eight, decode8]
  | skp | sknp => simp [encode, decodeWord_of_fieldOp_fourteen, decodeE]
  | ldVxDt | ldVxK | ldDtVx | ldStVx | addI | ldF | ldB | storeRegs | loadRegs =>
    simp [encode, decodeWord_of_fieldOp_fifteen, decodeF]

/-- The decoder takes the two bytes of a word off the front, high byte first. -/
theorem decode_wordBytes_append (w : Word) (rest : List Byte) :
    decode (wordBytes w ++ rest) = .ok (decodeWord w, rest) := by
  show Except.ok (decodeWord (wordOfBytes (highByte w) (lowByte w)), rest) = _
  rw [wordOfBytes_highByte_lowByte]

/-- Settles O2: the two bytes give the word back, and the word decodes to its instruction. -/
theorem decodeOfEncodedInstruction : Obligations.DecodeOfEncodedInstruction := by
  intro i rest hwf
  rw [encodeBytes, decode_wordBytes_append, decodeWord_encode hwf]

/-- Settles O1: a finite fact about literal words, for the decoder to compute. -/
theorem writtenOutWordsDecode : Obligations.WrittenOutWordsDecode := by
  unfold Obligations.WrittenOutWordsDecode
  decide

/-! ### Encode after decode -/

theorem formNnn_eq_of_fields {w : Word} {op : BitVec 4} (hop : fieldOp w = op) : formNnn op (fieldNnn w) = w :=
  hop ▸ formNnn_fields w

theorem formXkk_eq_of_fields {w : Word} {op : BitVec 4} {kk : Byte} (hop : fieldOp w = op) (hkk : fieldKk w = kk) :
    formXkk op (fieldX w) kk = w :=
  hop ▸ hkk ▸ formXkk_fields w

theorem formXyn_eq_of_fields {w : Word} {op n : BitVec 4} (hop : fieldOp w = op) (hn : fieldN w = n) :
    formXyn op (fieldX w) (fieldY w) n = w :=
  hop ▸ hn ▸ formXyn_fields w

/-- The canonical form of 5xyN and 9xyN: the low nibble at 0 (R71). -/
theorem formXyn_zero_eq_and {w : Word} {op : BitVec 4} (hop : fieldOp w = op) :
    formXyn op (fieldX w) (fieldY w) 0 = w &&& 0xFFF0 := by
  conv_rhs => rw [← formXyn_eq_of_fields hop rfl]
  apply BitVec.eq_of_getLsbD_eq
  intro k hk
  simp only [formXyn, BitVec.getLsbD_and, BitVec.getLsbD_append]
  interval_cases k <;> simp

theorem canonicalWord_of_fieldOp {w : Word} {op : BitVec 4} (hop : fieldOp w = op) (h : ¬ (op = 0x5 ∨ op = 0x9)) :
    canonicalWord w = w := if_neg (hop ▸ h)

theorem decode0_wf_encode {w : Word} (hop : fieldOp w = 0x0) :
    (decode0 w).wf = true ∧ encode (decode0 w) = w := by
  have hform := formNnn_eq_of_fields hop
  unfold decode0
  split_ifs with hcls hret
  · exact ⟨rfl, hcls.symm⟩
  · exact ⟨rfl, hret.symm⟩
  · have hnot (v : Word) (hne : w ≠ v) (hv : fieldOp v = 0x0) : fieldNnn w ≠ fieldNnn v := fun e =>
      hne (by rw [← hform, e, formNnn_eq_of_fields hv])
    exact ⟨Bool.and_eq_true_iff.2 ⟨bne_iff_ne.2 (hnot 0x00E0 hcls rfl), bne_iff_ne.2 (hnot 0x00EE hret rfl)⟩, hform⟩

theorem decode8_wf_encode {w : Word} (hop : fieldOp w = 0x8) :
    (decode8 w).wf = true ∧ encode (decode8 w) = w := by
  have hform {n : BitVec 4} (hn : fieldN w = n) : true = true ∧ formXyn 0x8 (fieldX w) (fieldY w) n = w :=
    ⟨rfl, formXyn_eq_of_fields hop hn⟩
  unfold decode8
  -- the nine selectors in the order of the tests, then the catch-all
  iterate 9
    split
    · exact hform ‹_›
  exact ⟨isUnmatchedWord_iff.2 (.inl ⟨hop, nibble_unmatched_iff.2 (by simp_all)⟩), rfl⟩

theorem decodeE_wf_encode {w : Word} (hop : fieldOp w = 0xE) :
    (decodeE w).wf = true ∧ encode (decodeE w) = w := by
  unfold decodeE
  split_ifs with h9E hA1
  · exact ⟨rfl, formXkk_eq_of_fields hop h9E⟩
  · exact ⟨rfl, formXkk_eq_of_fields hop hA1⟩
  · exact ⟨isUnmatchedWord_iff.2 (.inr (.inl ⟨hop, by simpa using ⟨h9E, hA1⟩⟩)), rfl⟩

theorem decodeF_wf_encode {w : Word} (hop : fieldOp w = 0xF) :
    (decodeF w).wf = true ∧ encode (decodeF w) = w := by
  have hform {kk : Byte} (hkk : fieldKk w = kk) : true = true ∧ formXkk 0xF (fieldX w) kk = w :=
    ⟨rfl, formXkk_eq_of_fields hop hkk⟩
  unfold decodeF
  -- the nine selectors in the order of the tests, then the catch-all
  iterate 9
    split
    · exact hform ‹_›
  exact ⟨isUnmatchedWord_iff.2 (.inr (.inr ⟨hop, by simp_all⟩)), rfl⟩

theorem primary_cases (op : BitVec 4) : op = 0x0 ∨ op = 0x1 ∨ op = 0x2 ∨ op = 0x3 ∨ op = 0x4 ∨ op = 0x5 ∨ op = 0x6 ∨
    op = 0x7 ∨ op = 0x8 ∨ op = 0x9 ∨ op = 0xA ∨ op = 0xB ∨ op = 0xC ∨ op = 0xD ∨ op = 0xE ∨ op = 0xF := by
  revert op; decide

/-- Primary by primary: the decoder keeps the selectors and the fields it reads, which fill the word but for the low
nibble of 5xyN and 9xyN. -/
theorem decodeWord_wf_encode (w : Word) : (decodeWord w).wf = true ∧ encode (decodeWord w) = canonicalWord w := by
  have hwhole {op : BitVec 4} (hop : fieldOp w = op) (hne : ¬ (op = 0x5 ∨ op = 0x9)) {i : Instr}
      (hi : i.wf = true ∧ encode i = w) (hdecode : decodeWord w = i) :
      (decodeWord w).wf = true ∧ encode (decodeWord w) = canonicalWord w := by
    rwa [hdecode, canonicalWord_of_fieldOp hop hne]
  have hskip {op : BitVec 4} (hop : fieldOp w = op) (heq : op = 0x5 ∨ op = 0x9) {i : Instr}
      (hi : i.wf = true ∧ encode i = formXyn op (fieldX w) (fieldY w) 0) (hdecode : decodeWord w = i) :
      (decodeWord w).wf = true ∧ encode (decodeWord w) = canonicalWord w := by
    rwa [hdecode, canonicalWord, if_pos (hop ▸ heq), ← formXyn_zero_eq_and hop]
  have hnnn {op : BitVec 4} (hop : fieldOp w = op) := formNnn_eq_of_fields hop
  have hxkk {op : BitVec 4} (hop : fieldOp w = op) := formXkk_eq_of_fields hop rfl
  rcases primary_cases (fieldOp w) with h | h | h | h | h | h | h | h | h | h | h | h | h | h | h | h
  · exact hwhole h (by decide) (decode0_wf_encode h) (if_pos h)
  · exact hwhole h (by decide) (i := .jp _) ⟨rfl, hnnn h⟩ (by simp [decodeWord, h])
  · exact hwhole h (by decide) (i := .call _) ⟨rfl, hnnn h⟩ (by simp [decodeWord, h])
  · exact hwhole h (by decide) (i := .seImm _ _) ⟨rfl, hxkk h⟩ (by simp [decodeWord, h])
  · exact hwhole h (by decide) (i := .sneImm _ _) ⟨rfl, hxkk h⟩ (by simp [decodeWord, h])
  · exact hskip h (by decide) (i := .seReg _ _) ⟨rfl, rfl⟩ (by simp [decodeWord, h])
  · exact hwhole h (by decide) (i := .ldImm _ _) ⟨rfl, hxkk h⟩ (by simp [decodeWord, h])
  · exact hwhole h (by decide) (i := .addImm _ _) ⟨rfl, hxkk h⟩ (by simp [decodeWord, h])
  · exact hwhole h (by decide) (decode8_wf_encode h) (decodeWord_of_fieldOp_eight h)
  · exact hskip h (by decide) (i := .sneReg _ _) ⟨rfl, rfl⟩ (by simp [decodeWord, h])
  · exact hwhole h (by decide) (i := .ldI _) ⟨rfl, hnnn h⟩ (by simp [decodeWord, h])
  · exact hwhole h (by decide) (i := .jpV0 _) ⟨rfl, hnnn h⟩ (by simp [decodeWord, h])
  · exact hwhole h (by decide) (i := .rnd _ _) ⟨rfl, hxkk h⟩ (by simp [decodeWord, h])
  · exact hwhole h (by decide) (i := .drw _ _ _) ⟨rfl, formXyn_eq_of_fields h rfl⟩ (by simp [decodeWord, h])
  · exact hwhole h (by decide) (decodeE_wf_encode h) (decodeWord_of_fieldOp_fourteen h)
  · exact hwhole h (by decide) (decodeF_wf_encode h) (decodeWord_of_fieldOp_fifteen h)

/-- Settles O3: every primary keeps its fields, and what it leaves unmatched is a word of the table. -/
theorem encodeOfDecodedWord : Obligations.EncodeOfDecodedWord := decodeWord_wf_encode

/-- A word that decodes as unmatched keeps all its bits: 5xyN and 9xyN decode as skips. -/
theorem eq_of_decodeWord_eq_unmatched {w u : Word} (h : decodeWord w = .unmatched u) : u = w := by
  by_cases hskip : fieldOp w = 0x5 ∨ fieldOp w = 0x9
  · rcases hskip with h5 | h9
    · simp [decodeWord, h5] at h
    · simp [decodeWord, h9] at h
  · calc u = encode (decodeWord w) := by rw [h, encode]
      _ = canonicalWord w := (decodeWord_wf_encode w).2
      _ = w := if_neg hskip

/-- Settles O5: the tests of the secondary selectors fail on the table's words, and what decodes as unmatched is well
formed, so a word of the table. -/
theorem unmatchedWordsExactly : Obligations.UnmatchedWordsExactly := by
  refine fun w => ⟨fun ⟨u, hu⟩ => ?_, fun h => ⟨w, decodeWord_of_isUnmatchedWord h⟩⟩
  have hwf : (decodeWord w).wf = true := (decodeWord_wf_encode w).1
  rw [hu] at hwf
  exact eq_of_decodeWord_eq_unmatched hu ▸ hwf

end Sys2Proof
end

section
/-! The decoder against opcode_table.json, read first match wins (30_encoding.md section 3). -/

namespace Sys2Proof

open Sys2Proof.Machine

/-- The rows between 00EE and the catch-all, which each name one operation. -/
def selectorRows : List OpcodeRow := (opcodeTable.drop 2).dropLast

/-- A word has the fixed bits of a row. -/
def rowFits (w : Word) (r : OpcodeRow) : Bool := w &&& r.mask == r.value

theorem rowFits_iff {w : Word} {r : OpcodeRow} : rowFits w r = true ↔ w &&& r.mask = r.value := beq_iff_eq

theorem tableLookup_eq (w : Word) : tableLookup w = opcodeTable.find? (rowFits w) := rfl

theorem opcodeTable_eq : opcodeTable = rowOf .cls :: rowOf .ret :: (selectorRows ++ [rowOf (.unmatched 0)]) := rfl

theorem rowOf_mem_opcodeTable (i : Instr) : rowOf i ∈ opcodeTable := by
  cases i <;> simp [opcodeTable, rowOf]

/-! ### A word lies under the row of what it decodes to -/

/-- The word of an instruction has the fixed bits of its row. -/
theorem encode_and_rowMask (i : Instr) : encode i &&& (rowOf i).mask = (rowOf i).value := by
  cases i with
  | cls | ret => rfl
  | sys | jp | call | ldI | jpV0 => exact formNnn_op ..
  | seImm | sneImm | ldImm | addImm | rnd => exact formXkk_op ..
  | seReg | sneReg | drw => exact formXyn_op ..
  | ldReg | orReg | andReg | xorReg | addReg | subReg | shr | subn | shl => exact formXyn_sel ..
  | skp | sknp | ldVxDt | ldVxK | ldDtVx | ldStVx | addI | ldF | ldB | storeRegs | loadRegs => exact formXkk_sel ..
  | unmatched => exact BitVec.and_zero

/-- The nibble that the canonical form drops is under no mask of 5xyN and 9xyN. -/
theorem canonicalWord_and_rowMask (w : Word) :
    canonicalWord w &&& (rowOf (decodeWord w)).mask = w &&& (rowOf (decodeWord w)).mask := by
  by_cases hskip : fieldOp w = 0x5 ∨ fieldOp w = 0x9
  · have hmask : (rowOf (decodeWord w)).mask = 0xF000 := by
      rcases hskip with h | h <;> simp [decodeWord, h, rowOf]
    rw [canonicalWord, if_pos hskip, hmask, BitVec.and_assoc]
    rfl
  · rw [canonicalWord, if_neg hskip]

theorem rowFits_decodeWord (w : Word) : rowFits w (rowOf (decodeWord w)) = true := by
  rw [rowFits_iff, ← canonicalWord_and_rowMask, ← (decodeWord_wf_encode w).2, encode_and_rowMask]

/-! ### A word under a row decodes to an operation of that row -/

/-- The low nibble alone chooses the row of primary 0x8. -/
theorem rowOf_decode8_eq {w w' : Word} (h : fieldN w = fieldN w') : rowOf (decode8 w) = rowOf (decode8 w') := by
  simp only [decode8, apply_ite rowOf, h]
  rfl

/-- The low byte alone chooses the row of primary 0xE. -/
theorem rowOf_decodeE_eq {w w' : Word} (h : fieldKk w = fieldKk w') : rowOf (decodeE w) = rowOf (decodeE w') := by
  simp only [decodeE, apply_ite rowOf, h]
  rfl

/-- The low byte alone chooses the row of primary 0xF. -/
theorem rowOf_decodeF_eq {w w' : Word} (h : fieldKk w = fieldKk w') : rowOf (decodeF w) = rowOf (decodeF w') := by
  simp only [decodeF, apply_ite rowOf, h]
  rfl

/-- The masks of the rows cover exactly the selectors that the decoder tests. -/
theorem mask_of_mem_selectorRows : ∀ r ∈ selectorRows,
    r = rowOf (.sys 0) ∨ (r.mask = 0xF000 ∧ fieldOp r.value ∉ [0x0#4, 0x8#4, 0xE#4, 0xF#4]) ∨
    (r.mask = 0xF00F ∧ fieldOp r.value = 0x8) ∨ (r.mask = 0xF0FF ∧ fieldOp r.value = 0xE) ∨
    (r.mask = 0xF0FF ∧ fieldOp r.value = 0xF) := by decide

/-- The match of a row, read as a word, is an instruction of that row. -/
theorem rowOf_decodeWord_value : ∀ r ∈ selectorRows, rowOf (decodeWord r.value) = r := by decide

/-- The word and the row's match have the same selectors, and so the same row. -/
theorem rowOf_decodeWord_of_rowFits {r : OpcodeRow} {w : Word} (hr : r ∈ selectorRows) (hfits : rowFits w r = true)
    (hcls : w ≠ 0x00E0) (hret : w ≠ 0x00EE) : rowOf (decodeWord w) = r := by
  have hmatch := rowFits_iff.1 hfits
  have hvalue := rowOf_decodeWord_value r hr
  rcases mask_of_mem_selectorRows r hr with rfl | ⟨hm, hop⟩ | ⟨hm, hop⟩ | ⟨hm, hop⟩ | ⟨hm, hop⟩
  · rw [decodeWord_of_primary_zero hmatch hcls hret, rowOf, rowOf]
  all_goals
    rw [hm] at hmatch
    have hopw : fieldOp w = fieldOp r.value := extractLsb'_eq_of_mask (by decide) hmatch
  · rw [rowOf_decodeWord_eq_of_fieldOp_eq hopw (hopw ▸ hop), hvalue]
  · have hn : fieldN w = fieldN r.value := extractLsb'_eq_of_mask (by decide) hmatch
    rw [← hvalue, decodeWord_of_fieldOp_eight (hopw.trans hop), decodeWord_of_fieldOp_eight hop, rowOf_decode8_eq hn]
  · have hkk : fieldKk w = fieldKk r.value := extractLsb'_eq_of_mask (by decide) hmatch
    rw [← hvalue, decodeWord_of_fieldOp_fourteen (hopw.trans hop), decodeWord_of_fieldOp_fourteen hop,
      rowOf_decodeE_eq hkk]
  · have hkk : fieldKk w = fieldKk r.value := extractLsb'_eq_of_mask (by decide) hmatch
    rw [← hvalue, decodeWord_of_fieldOp_fifteen (hopw.trans hop), decodeWord_of_fieldOp_fifteen hop,
      rowOf_decodeF_eq hkk]

/-- A word whose row is none of the selector rows has, but for 00E0 and 00EE, the catch-all. -/
theorem rowOf_decodeWord_eq_catchAll {w : Word} (hcls : rowFits w (rowOf .cls) = false)
    (hret : rowFits w (rowOf .ret) = false) (h : rowOf (decodeWord w) ∉ selectorRows) :
    rowOf (decodeWord w) = rowOf (.unmatched 0) := by
  have hfits := rowFits_decodeWord w
  have hmem := rowOf_mem_opcodeTable (decodeWord w)
  rw [opcodeTable_eq, List.mem_cons, List.mem_cons, List.mem_append, List.mem_singleton] at hmem
  rcases hmem with hrow | hrow | hrow | hrow
  · exact absurd (hrow ▸ hfits) (by simp [hcls])
  · exact absurd (hrow ▸ hfits) (by simp [hret])
  · exact absurd hrow h
  · exact hrow

theorem rowFits_wholeWord_of_ne {w : Word} {i : Instr} (hmask : (rowOf i).mask = BitVec.allOnes 16)
    (hne : w ≠ (rowOf i).value) : rowFits w (rowOf i) = false := by
  rw [rowFits, hmask, BitVec.and_allOnes]
  exact beq_false_of_ne hne

/-- Settles O4: past the two rows that name one word each, a selector row that fits is the decoded instruction's, and
where none fits the decoded instruction's row is the catch-all. -/
theorem decodeIsFirstMatchingTableRow : Obligations.DecodeIsFirstMatchingTableRow := by
  intro w
  by_cases hcls : w = 0x00E0
  · subst hcls; rfl
  by_cases hret : w = 0x00EE
  · subst hret; rfl
  have hclsRow : rowFits w (rowOf .cls) = false := rowFits_wholeWord_of_ne rfl hcls
  have hretRow : rowFits w (rowOf .ret) = false := rowFits_wholeWord_of_ne rfl hret
  have hcatch : rowFits w (rowOf (.unmatched 0)) = true := rowFits_iff.2 BitVec.and_zero
  rw [tableLookup_eq, opcodeTable_eq, List.find?_cons_of_neg (by simp [hclsRow]),
    List.find?_cons_of_neg (by simp [hretRow]), List.find?_append, List.find?_cons_of_pos hcatch]
  cases hfind : selectorRows.find? (rowFits w) with
  | some r =>
    have hr := List.mem_of_find?_eq_some hfind
    exact congrArg some (rowOf_decodeWord_of_rowFits hr (List.find?_some hfind) hcls hret).symm
  | none =>
    have hout : rowOf (decodeWord w) ∉ selectorRows := fun hmem =>
      List.find?_eq_none.1 hfind _ hmem (rowFits_decodeWord w)
    exact congrArg some (rowOf_decodeWord_eq_catchAll hclsRow hretRow hout).symm

end Sys2Proof
end

section
/-! What an operation does where it raises no fault, as one function of the instruction and the state; and, read off
it, who writes what (10_state.md section 1). -/

namespace Sys2Proof.Machine

/-- The state an operation answers where the table of faults lists nothing for it (`exec_of_faultOf_none`). -/
def completed (i : Instr) (s : State) : State :=
  match i with
  | .cls => s.advance.setVid clearScreen
  | .ret => { s with pc := s.stack[s.sp.val - 1], sp := Fin.ofNat 17 (s.sp.val - 1) }
  | .sys _ | .unmatched _ => s.advance
  | .jp nnn => s.advance.setPc (zext16 nnn)
  | .call nnn => { s with
      pc := zext16 nnn, stack := s.stack.setIfInBounds s.sp.val (s.pc + 2), sp := Fin.ofNat 17 (s.sp.val + 1) }
  | .seImm x kk => s.advance.skipIf (s.getV x == kk)
  | .sneImm x kk => s.advance.skipIf (s.getV x != kk)
  | .seReg x y => s.advance.skipIf (s.getV x == s.getV y)
  | .sneReg x y => s.advance.skipIf (s.getV x != s.getV y)
  | .ldImm x kk => s.advance.setV x kk
  | .addImm x kk => s.advance.setV x (s.getV x + kk)
  | .ldReg x y => s.advance.setV x (s.getV y)
  | .orReg x y => s.advance.setV x (s.getV x ||| s.getV y)
  | .andReg x y => s.advance.setV x (s.getV x &&& s.getV y)
  | .xorReg x y => s.advance.setV x (s.getV x ^^^ s.getV y)
  | .addReg x y => s.advance.setResultFlag x (s.getV x + s.getV y) (carryFlag (s.getV x) (s.getV y))
  | .subReg x y => s.advance.setResultFlag x (s.getV x - s.getV y) (greaterFlag (s.getV x) (s.getV y))
  | .shr x _ => s.advance.setResultFlag x (s.getV x >>> 1) (lowBitFlag (s.getV x))
  | .subn x y => s.advance.setResultFlag x (s.getV y - s.getV x) (greaterFlag (s.getV y) (s.getV x))
  | .shl x _ => s.advance.setResultFlag x (s.getV x <<< 1) (highBitFlag (s.getV x))
  | .ldI nnn => s.advance.setI (zext16 nnn)
  | .jpV0 nnn => s.advance.setPc (jumpOffset (s.getV 0) nnn)
  | .rnd x kk => s.advance.drawn.setV x (Config.rnd s.draws &&& kk)
  | .drw x y n =>
    (s.advance.setVid (drawSprite s.mem s.i.toNat n.toNat (s.getV x) (s.getV y) s.vid).1).setFlag
      (drawSprite s.mem s.i.toNat n.toNat (s.getV x) (s.getV y) s.vid).2
  | .skp x => s.advance.skipIf (s.key.getLsbD (s.getV x).toNat)
  | .sknp x => s.advance.skipIf (! s.key.getLsbD (s.getV x).toNat)
  | .ldVxDt x => s.advance.setV x s.dt
  | .ldVxK x => (s.lowestKey.map fun k => s.advance.setV x (BitVec.ofNat 8 k.val)).getD s
  | .ldDtVx x => s.advance.setDt (s.getV x)
  | .ldStVx x => s.advance.setSt (s.getV x)
  | .addI x => s.advance.setI (addIndex s.i (s.getV x))
  | .ldF x => s.advance.setI (glyphAddr (s.getV x))
  | .ldB x => s.advance.setMem (s.mem.writeBytes s.i.toNat (bcdBytes (s.getV x)))
  | .storeRegs x => s.advance.setMem (s.mem.writeBytes s.i.toNat (blockBytes s x))
  | .loadRegs x => s.advance.setAllV (loadBlock s.mem s.i.toNat (x.val + 1) s.v)

theorem exec_of_faultOf_some {i : Instr} {s : State} {c : Fault} (h : faultOf i s = some c) :
    exec i s = .next (s.takeFault c) := by
  obtain ⟨t, hnext, ⟨hnone, -⟩ | ⟨d, hd, rfl⟩⟩ := exec_completes_or_faults i s
  · cases hnone.symm.trans h
  · cases hd.symm.trans h
    exact hnext

/-- A row of the table of faults, one condition and one cause, that lists nothing. -/
theorem not_of_faultRow_eq_none {p : Prop} [Decidable p] {c : Fault} (h : (if p then some c else none) = none) : ¬ p :=
  fun hp => Option.some_ne_none c ((if_pos hp).symm.trans h)

/-- Where the table lists no fault the operation completes. -/
theorem exec_of_faultOf_none {i : Instr} {s : State} (h : faultOf i s = none) : exec i s = .next (completed i s) := by
  cases i with
  | ret =>
    have hsp : s.sp ≠ 0 := not_of_faultRow_eq_none h
    have hlt : s.sp.val - 1 < 17 := by omega
    rw [exec_ret_ok (Nat.pos_of_ne_zero (Fin.val_ne_of_ne hsp)), completed]
    congr
    exact (Nat.mod_eq_of_lt hlt).symm
  | call nnn =>
    have hsp : s.sp.val ≠ 16 := Fin.val_ne_of_ne (not_of_faultRow_eq_none h)
    have hlt : s.sp.val < 16 := by omega
    rw [exec_call_ok hlt, completed]
    congr
    · simp [Vector.setIfInBounds, Array.setIfInBounds, hlt]
    · exact (Nat.mod_eq_of_lt (Nat.succ_lt_succ hlt)).symm
  | drw x y n =>
    have hr : ¬ (0 < n.toNat ∧ s.i.toNat + n.toNat - 1 > 0xFFF) := not_of_faultRow_eq_none h
    exact exec_drw_ok (by bv_omega)
  | skp x =>
    have hx : (s.getV x).toNat ≤ 15 := Nat.le_of_not_lt (not_of_faultRow_eq_none h)
    exact exec_skp_ok (k := ⟨(s.getV x).toNat, by omega⟩) rfl
  | sknp x =>
    have hx : (s.getV x).toNat ≤ 15 := Nat.le_of_not_lt (not_of_faultRow_eq_none h)
    exact exec_sknp_ok (k := ⟨(s.getV x).toNat, by omega⟩) rfl
  | ldVxK x =>
    cases hk : s.lowestKey with
    | none => rw [exec_ldVxK_wait hk, completed, hk]; rfl
    | some k => rw [exec_ldVxK_key hk, completed, hk]; rfl
  | ldB x => exact exec_ldB_ok (Nat.le_of_not_lt (not_of_faultRow_eq_none h))
  | storeRegs x => exact exec_storeRegs_ok (Nat.le_of_not_lt (not_of_faultRow_eq_none h))
  | loadRegs x => exact exec_loadRegs_ok (Nat.le_of_not_lt (not_of_faultRow_eq_none h))
  | _ => rfl

/-- The two ends of an operation. -/
theorem exec_next_cases {i : Instr} {s t : State} (h : exec i s = .next t) :
    (∃ c, faultOf i s = some c ∧ t = s.takeFault c) ∨ (faultOf i s = none ∧ t = completed i s) := by
  cases hf : faultOf i s with
  | some c =>
    cases (exec_of_faultOf_some hf).symm.trans h
    exact .inl ⟨c, rfl, rfl⟩
  | none =>
    cases (exec_of_faultOf_none hf).symm.trans h
    exact .inr ⟨rfl, rfl⟩

/-! ### The completed operation, piece by piece -/

theorem completed_i {i : Instr} (s : State) (h : writesIndex i = false) : (completed i s).i = s.i := by
  cases i with
  | ldI | addI | ldF => cases h
  | ldVxK => cases hk : s.lowestKey <;> simp [completed, hk]
  | _ => simp [completed]

theorem completed_vid {i : Instr} (s : State) (h : writesDisplay i = false) : (completed i s).vid = s.vid := by
  cases i with
  | cls | drw => cases h
  | ldVxK => cases hk : s.lowestKey <;> simp [completed, hk]
  | _ => simp [completed]

theorem completed_mem {i : Instr} (s : State) (h : writesMemory i = false) : (completed i s).mem = s.mem := by
  cases i with
  | ldB | storeRegs => cases h
  | ldVxK => cases hk : s.lowestKey <;> simp [completed, hk]
  | _ => simp [completed]

theorem completed_stack_sp {i : Instr} (s : State) (h : writesStack i = false) :
    (completed i s).stack = s.stack ∧ (completed i s).sp = s.sp := by
  cases i with
  | ret | call => cases h
  | ldVxK => cases hk : s.lowestKey <;> simp [completed, hk]
  | _ => simp [completed]

theorem completed_dt {i : Instr} (s : State) (h : ∀ x, i ≠ .ldDtVx x) : (completed i s).dt = s.dt := by
  cases i with
  | ldDtVx x => exact absurd rfl (h x)
  | ldVxK => cases hk : s.lowestKey <;> simp [completed, hk]
  | _ => simp [completed]

theorem completed_st {i : Instr} (s : State) (h : ∀ x, i ≠ .ldStVx x) : (completed i s).st = s.st := by
  cases i with
  | ldStVx x => exact absurd rfl (h x)
  | ldVxK => cases hk : s.lowestKey <;> simp [completed, hk]
  | _ => simp [completed]

theorem completed_flt (i : Instr) (s : State) : (completed i s).flt = s.flt := by
  cases i with
  | ldVxK => cases hk : s.lowestKey <;> simp [completed, hk]
  | _ => simp [completed]

/-- The registers that Fx65 names are those up to x. -/
theorem not_mem_writtenRegs_loadRegs {x r : RegIdx} (h : r ∉ writtenRegs (.loadRegs x)) : x < r := by
  simpa [writtenRegs, mem_keyOrder] using h

theorem getV_setAllV_loadBlock (s : State) (m : Memory) (base : Nat) (x r : RegIdx) :
    (s.setAllV (loadBlock m base (x.val + 1) s.v)).getV r = if r ≤ x then m.read (base + r.val) else s.getV r := by
  rw [State.getV, State.setAllV_v, getElem_loadBlock]
  simp only [Nat.lt_succ_iff, Fin.le_def, State.getV]

/-- A register the operation does not name stays (30_encoding.md rule R78). -/
theorem completed_getV {i : Instr} {s : State} {r : RegIdx} (h : r ∉ writtenRegs i) :
    (completed i s).getV r = s.getV r := by
  cases i with
  | ldImm x | addImm x | ldReg x | orReg x | andReg x | xorReg x | rnd x | ldVxDt x =>
    exact State.getV_setV_ne _ x r _ (List.ne_of_not_mem_cons h)
  | addReg x | subReg x | shr x | subn x | shl x => exact (frame_advance_setResultFlag s x _ _).1 r h
  | drw => exact State.getV_setFlag_ne _ _ r (List.ne_of_not_mem_cons h)
  | loadRegs x =>
    exact (getV_setAllV_loadBlock s.advance s.mem s.i.toNat x r).trans
      (if_neg (not_le_of_gt (not_mem_writtenRegs_loadRegs h)))
  | ldVxK x =>
    cases hk : s.lowestKey with
    | none => simp [completed, hk]
    | some k => simp [completed, hk, State.getV_setV_ne _ _ _ _ (List.ne_of_not_mem_cons h)]
  | seImm | sneImm | seReg | sneReg | skp | sknp => exact State.getV_skipIf ..
  | _ => rfl

/-- The six flag writers write the flag last (rule R77). -/
theorem completed_vf_of_writesFlag {i : Instr} (s : State) (h : writesFlag i = true) :
    ∃ f : Bool, (completed i s).getV 15 = if f then 1 else 0 := by
  cases i with
  | addReg | subReg | shr | subn | shl => exact ⟨_, State.getV_setResultFlag_vf ..⟩
  | drw => exact ⟨_, State.getV_setFlag_vf ..⟩
  | _ => cases h

/-! ### The obligations -/

/-- Settles O46: a fault writes the latch alone, and of what completes each piece is read off `completed`. -/
theorem onlyNamedOperationsWrite : Obligations.OnlyNamedOperationsWrite := by
  intro i s t h
  have hkey := exec_key h
  rcases exec_next_cases h with ⟨c, -, rfl⟩ | ⟨-, rfl⟩
  · exact ⟨fun _ => rfl, fun _ => rfl, fun _ => rfl, fun _ => ⟨rfl, rfl⟩, fun _ => rfl, fun _ => rfl, rfl,
      fun _ _ => rfl⟩
  · exact ⟨completed_i s, completed_vid s, completed_mem s, completed_stack_sp s, completed_dt s, completed_st s, hkey,
      fun _ => completed_getV⟩

/-- Settles O13: a flag writer's last write is its flag, and an operation leaves the registers it does not name. -/
theorem flagWritersExactly : Obligations.FlagWritersExactly := by
  intro i s t h hnone
  cases (exec_of_faultOf_none hnone).symm.trans h
  refine ⟨fun hflag => ?_, fun _ => completed_getV⟩
  obtain ⟨f, hf⟩ := completed_vf_of_writesFlag s hflag
  cases f with
  | false => exact .inl hf
  | true => exact .inr hf

end Sys2Proof.Machine
end

section
/-! The faults of the operations and of the cycle, and that every step answers (60_exceptions.md rules R200 to R202). -/

namespace Sys2Proof.Machine

theorem faultRow_ne_some {p : Prop} [Decidable p] {c d : Fault} (hne : c ≠ d) :
    (if p then some c else none) ≠ some d := by
  split
  · exact fun h => hne (Option.some.inj h)
  · exact nofun

/-- The table gives FETCH_RANGE to the fetch alone. -/
theorem faultOf_ne_fetchRange (i : Instr) (s : State) : faultOf i s ≠ some .fetchRange := by
  cases i with
  | drw | ldB | storeRegs | loadRegs | call | ret | skp | sknp => exact faultRow_ne_some (by decide)
  | _ => nofun

theorem keepsAllBut_takeFault (s : State) (c : Fault) : KeepsAllBut [.latch] s (s.takeFault c) := by
  simp [keepsAllBut_iff]

/-- Settles O39: a listed fault is taken, with its own code, and an operation that completes leaves the latch. -/
theorem faultsExactlyAsListed : Obligations.FaultsExactlyAsListed := by
  intro i s
  have hfetch := faultOf_ne_fetchRange i s
  cases hf : faultOf i s with
  | none =>
    exact ⟨_, exec_of_faultOf_none hf, nofun, fun _ => completed_flt i s, nofun, nofun, nofun, nofun, nofun⟩
  | some c =>
    have hcode {d : Fault} (h : some c = some d) : (s.takeFault c).flt = d.code := by rw [Option.some.inj h]; rfl
    exact ⟨_, exec_of_faultOf_some hf, fun d h => by rw [Option.some.inj h], nofun,
      hcode, hcode, hcode, hcode, hf ▸ hfetch⟩

/-- The codes of the causes that an operation can raise. -/
theorem code_cases_of_ne_fetchRange {c : Fault} (h : c ≠ .fetchRange) :
    (c = .dataRange ∧ c.code = 2) ∨ (c = .stackOverflow ∧ c.code = 3) ∨
      (c = .stackUnderflow ∧ c.code = 4) ∨ (c = .keyRange ∧ c.code = 5) := by
  revert h; cases c <;> decide

/-- Settles O41: a running core's cycle halts it by the fetch fault or by the listed fault of its operation, and either
is one `takeFault`. -/
theorem faultingStepKeepsEverything : Obligations.FaultingStepKeepsEverything := by
  intro s t hrun h hhalt
  rcases runCycle_next h with ⟨hs, -⟩ | ⟨-, hfetch, rfl⟩ | ⟨-, w, u, hfetch, hnext, rfl⟩
  · exact absurd hrun hs
  · exact ⟨.fetchRange, rfl, rfl, keepsAllBut_takeFault s _, .inl ⟨rfl, rfl, State.fetch_none.1 hfetch⟩⟩
  · have hu : Halted u := by rwa [Halted, State.endCycle_flt] at hhalt
    obtain ⟨c, hc, rfl⟩ := exec_eq_takeFault_of_halted hrun hnext hu
    have hne : c ≠ .fetchRange := fun e => faultOf_ne_fetchRange _ s (e ▸ hc)
    rw [State.endCycle_of_halted hu]
    exact ⟨c, rfl, rfl, keepsAllBut_takeFault s c, .inr ⟨w, hfetch, hc, code_cases_of_ne_fetchRange hne⟩⟩

/-! ### Every step answers -/

theorem exec_answers (i : Instr) (s : State) : ∃ t, exec i s = .next t :=
  let ⟨t, h, _⟩ := exec_completes_or_faults i s
  ⟨t, h⟩

/-- With the host's byte, step 4 is Cxkk on that byte or `exec`. -/
theorem execWith_cases (r : Byte) (i : Instr) (s : State) :
    (∃ x kk, i = .rnd x kk ∧ execWith r i s = rndWith r x kk s) ∨ execWith r i s = exec i s := by
  by_cases h : ∃ x kk, i = .rnd x kk
  · obtain ⟨x, kk, rfl⟩ := h
    exact .inl ⟨x, kk, rfl, rfl⟩
  · exact .inr (execWith_of_not_rnd fun x kk e => h ⟨x, kk, e⟩)

theorem execWith_answers (r : Byte) (i : Instr) (s : State) : ∃ t, execWith r i s = .next t := by
  obtain ⟨x, kk, -, h⟩ | h := execWith_cases r i s
  · exact ⟨_, h⟩
  · exact h ▸ exec_answers i s

/-- A cycle answers when its step 4 does. -/
theorem runCycle_answers {run : Instr → State → Host.Outcome State Fault Refusal}
    (hrun : ∀ i s, ∃ t, run i s = .next t) (s : State) : ∃ t, runCycle run s = .next t := by
  by_cases hs : Running s
  · cases hfetch : s.fetch with
    | none => exact ⟨_, runCycle_noFetch hs hfetch⟩
    | some w =>
      obtain ⟨t, ht⟩ := hrun (decodeWord w) s
      exact ⟨_, runCycle_of_next hs hfetch ht⟩
  · exact ⟨s, runCycle_halted hs⟩

/-- The host's Cycle is the cycle with the host's byte, and its report is read off the state it leaves. -/
theorem hostOp_cycle_of_next {r : Byte} {s t : State} (h : cycle r s = .next t) :
    hostOp (.cycle r) s = .next (t, .report (cycleReport t)) := by
  simp only [hostOp, h]

/-- Settles O42: every operation answers, so every cycle does, and the other transactions are functions of the state. -/
theorem everyStepAnswers : Obligations.EveryStepAnswers := by
  refine ⟨runCycle_answers exec_answers, fun op s => ?_⟩
  cases op with
  | cycle r =>
    obtain ⟨t, ht⟩ := runCycle_answers (execWith_answers r) s
    exact ⟨t, _, hostOp_cycle_of_next ht⟩
  | _ => exact ⟨_, _, rfl⟩

/-- The state and the reply of the host's Cycle. -/
theorem hostOp_cycle_next {r : Byte} {s t : State} {a : HostReply} (h : hostOp (.cycle r) s = .next (t, a)) :
    cycle r s = .next t ∧ a = .report (cycleReport t) := by
  obtain ⟨u, hu⟩ := runCycle_answers (execWith_answers r) s
  cases (hostOp_cycle_of_next hu).symm.trans h
  exact ⟨hu, rfl⟩

/-- Settles O56: the report is `cycleReport` of the state the cycle leaves. -/
theorem cycleReportsItsFault : Obligations.CycleReportsItsFault := by
  refine ⟨fun r s t a h => ?_, fun _ => rfl⟩
  obtain ⟨-, rfl⟩ := hostOp_cycle_next h
  exact ⟨fun hrun => congrArg _ (if_pos hrun), fun hhalt => congrArg _ (if_neg hhalt)⟩

/-- Settles O38: step 0 of the cycle answers a halted core as it is. -/
theorem haltedCoreDoesNothing : Obligations.HaltedCoreDoesNothing := by
  intro s r hhalt
  refine ⟨runCycle_halted hhalt, ?_⟩
  rw [hostOp_cycle_of_next (runCycle_halted hhalt), cycleReport, if_neg hhalt]

/-- Settles O37: beyond 0xFFE the fetch answers nothing. -/
theorem fetchBeyondMemoryFaults : Obligations.FetchBeyondMemoryFaults :=
  fun _ hrun hpc => runCycle_noFetch hrun (State.fetch_none.2 hpc)

/-- Settles O40: the meanings' own range checks, one lemma each. -/
theorem dataBeyondMemoryFaults : Obligations.DataBeyondMemoryFaults :=
  ⟨fun _ _ _ _ hn h => exec_drw_fault hn h, fun _ _ h => exec_ldB_fault h,
    fun _ _ h => ⟨exec_storeRegs_fault h, exec_loadRegs_fault h⟩⟩

/-! ### The cycle and its operation -/

/-- A running core's cycle whose fetch answers is the operation of the fetched word, then the tick unless it faulted. -/
theorem step_of_fetch {s : State} {w : Word} (hrun : Running s) (hfetch : s.fetch = some w) :
    ∃ u, exec (decodeWord w) s = .next u ∧ step s = .next (if u.flt = 0 then u.tick else u) := by
  obtain ⟨u, hu⟩ := exec_answers (decodeWord w) s
  exact ⟨u, hu, runCycle_of_next hrun hfetch hu⟩

/-- Settles O36: the two bytes at PC are the fetched word, and as a number it is the one R44 names. -/
theorem stepRunsDecodedInstruction : Obligations.StepRunsDecodedInstruction := by
  refine ⟨fun s i hrun hpc _ hdecode => ?_, fun s w hrun hpc hw => ?_⟩
  · obtain ⟨rfl, -⟩ := Prod.mk.inj (Except.ok.inj hdecode)
    exact step_of_fetch hrun (State.fetch_some.2 ⟨hpc, rfl⟩)
  · have hword : w = wordOfBytes (s.mem.read s.pc.toNat) (s.mem.read (s.pc.toNat + 1)) :=
      BitVec.eq_of_toNat_eq (by rw [hw, wordOfBytes_toNat, Nat.mul_comm])
    exact step_of_fetch hrun (State.fetch_some.2 ⟨hpc, hword⟩)

/-- Settles O15: the word decodes to the no-op that keeps it. -/
theorem unmatchedWordCycle : Obligations.UnmatchedWordCycle := by
  intro s w hrun hfetch hw
  exact step_of_exec_advance hrun hfetch (by rw [decodeWord_of_isUnmatchedWord hw]; rfl)

/-- A cycle depends on step 4 only at the fetched word. -/
theorem runCycle_congr {run run' : Instr → State → Host.Outcome State Fault Refusal} {s : State}
    (h : ∀ w, s.fetch = some w → run (decodeWord w) s = run' (decodeWord w) s) : runCycle run s = runCycle run' s := by
  unfold runCycle
  cases hfetch : s.fetch with
  | none => rfl
  | some w => simp only [h w hfetch]

/-- `exec` is step 4 with the free value of the draw. -/
theorem exec_eq_execWith (i : Instr) (s : State) : exec i s = execWith (Config.rnd s.draws) i s := by
  obtain ⟨x, kk, rfl, h⟩ | h := execWith_cases (Config.rnd s.draws) i s
  · exact h.symm
  · exact h.symm

/-- Settles O47: at any word but Cxkk step 4 is `exec`, whatever the byte; and `exec` takes the draw's free value. -/
theorem randomByteReachesOnlyCxkk : Obligations.RandomByteReachesOnlyCxkk := by
  refine ⟨fun r r' s hno => runCycle_congr fun w hfetch => ?_, fun s => runCycle_congr fun w _ => exec_eq_execWith _ s⟩
  have hrnd (x : RegIdx) (kk : Byte) : decodeWord w ≠ .rnd x kk := fun e =>
    hno x kk (by rw [hfetch, Option.map_some, e])
  rw [execWith_of_not_rnd hrnd, execWith_of_not_rnd hrnd]

/-- Settles O48: a jump to itself leaves the state it began with, so its cycle is the tick alone. -/
theorem endedProgramStaysEnded : Obligations.EndedProgramStaysEnded := by
  intro s hended
  obtain ⟨hrun, nnn, hdecode, hpc⟩ := hended
  have htarget : zext16 nnn = s.pc := BitVec.eq_of_toNat_eq ((zext16_toNat nnn).trans hpc)
  have hnext : exec (.jp nnn) s = .next s := by
    show Host.Outcome.next (s.advance.setPc (zext16 nnn)) = .next s
    rw [htarget]
    rfl
  exact ⟨s.tick, step_eq_tick_of_exec hrun hdecode hnext rfl, ⟨hrun, nnn, hdecode, hpc⟩, rfl,
    tickTimer_toNat s.dt, tickTimer_toNat s.st, keepsAllBut_tick s⟩

end Sys2Proof.Machine
end

section
/-! The invariant: canonical memory, bounded PC and return addresses, a legal latch
(10_state.md rules R13, R19, R21). -/

namespace Sys2Proof.Machine

/-- Settles O43: every piece of the reset state is a literal. -/
theorem resetSatisfiesTheInvariant : Obligations.ResetSatisfiesTheInvariant := by
  unfold Obligations.ResetSatisfiesTheInvariant
  decide

/-! ### Transitions that leave the pieces of the invariant -/

theorem stateInv_of_same_pieces {s t : State} (h : StateInv s) (hmem : t.mem = s.mem) (hpc : t.pc = s.pc)
    (hstack : t.stack = s.stack) (hflt : t.flt = s.flt) : StateInv t := by
  simpa only [StateInv, MemCanonical, PcBounded, ReturnsBounded, FltLegal, hmem, hpc, hstack, hflt] using h

theorem stateInv_endCycle {s : State} (h : StateInv s) : StateInv s.endCycle :=
  stateInv_of_same_pieces h s.endCycle_mem s.endCycle_pc s.endCycle_stack s.endCycle_flt

/-- The codes are 1 to 5, so a fault entry keeps the latch legal. -/
theorem stateInv_takeFault {s : State} (h : StateInv s) (c : Fault) : StateInv (s.takeFault c) := by
  obtain ⟨hmem, hpc, hstack, -⟩ := h
  exact ⟨hmem, hpc, hstack, c.code_le⟩

/-! ### A completed operation, from a PC that a fetch allows (R46) -/

theorem completed_mem_wf (i : Instr) {s : State} (h : MemCanonical s) : MemCanonical (completed i s) := by
  cases hw : writesMemory i with
  | false => rwa [MemCanonical, completed_mem s hw]
  | true =>
    cases i with
    | ldB x => exact Memory.writeBytes_wf _ _ h
    | storeRegs x => exact Memory.writeBytes_wf _ _ h
    | _ => cases hw

theorem advance_skipIf_pc_le {s : State} (h : s.pc.toNat ≤ 0xFFE) (c : Bool) :
    (s.advance.skipIf c).pc.toNat ≤ 0x10FE := by
  rw [pc_advance_skipIf]
  split <;> bv_omega

/-- PC is advanced, skips, is loaded with twelve bits, a byte and twelve bits, or a return address, or stays. -/
theorem completed_pc_le (i : Instr) {s : State} (hpc : s.pc.toNat ≤ 0xFFE) (hstack : ReturnsBounded s) :
    PcBounded (completed i s) := by
  have hnext : (s.pc + 2).toNat ≤ 0x10FE := by bv_omega
  cases i with
  | ret => exact (hstack ⟨s.sp.val - 1, by omega⟩).trans (by decide)
  | jp nnn | call nnn => exact (zext16_toNat nnn).le.trans (by omega)
  | jpV0 nnn => exact (jumpOffset_toNat (s.getV 0) nnn).le.trans (by omega)
  | seImm | sneImm | seReg | sneReg | skp | sknp => exact advance_skipIf_pc_le hpc _
  | ldVxK x =>
    cases hk : s.lowestKey with
    | none => simpa [PcBounded, completed, hk] using hpc.trans (by decide)
    | some k => simpa [PcBounded, completed, hk] using hnext
  | _ => exact hnext

/-- The one return address that a call writes is that of the word after it. -/
theorem completed_returns_le (i : Instr) {s : State} (hpc : s.pc.toNat ≤ 0xFFE) (hstack : ReturnsBounded s) :
    ReturnsBounded (completed i s) := by
  cases hw : writesStack i with
  | false => rwa [ReturnsBounded, (completed_stack_sp s hw).1]
  | true =>
    cases i with
    | ret => exact hstack
    | call nnn =>
      intro k
      show ((s.stack.setIfInBounds s.sp.val (s.pc + 2))[k.val]).toNat ≤ 0x1000
      rw [Vector.getElem_setIfInBounds]
      split
      · bv_omega
      · exact hstack k
    | _ => cases hw

theorem stateInv_completed (i : Instr) {s : State} (hpc : s.pc.toNat ≤ 0xFFE) (h : StateInv s) :
    StateInv (completed i s) := by
  obtain ⟨hmem, -, hstack, hflt⟩ := h
  exact ⟨completed_mem_wf i hmem, completed_pc_le i hpc hstack, completed_returns_le i hpc hstack,
    by rwa [FltLegal, completed_flt]⟩

/-! ### Step 4, and the cycle around it -/

theorem stateInv_exec {i : Instr} {s t : State} (hpc : s.pc.toNat ≤ 0xFFE) (h : StateInv s)
    (hnext : exec i s = .next t) : StateInv t := by
  rcases exec_next_cases hnext with ⟨c, -, rfl⟩ | ⟨-, rfl⟩
  · exact stateInv_takeFault h c
  · exact stateInv_completed i hpc h

/-- The host's byte reaches a register alone, so it is the invariant of Cxkk with the free value. -/
theorem stateInv_execWith {r : Byte} {i : Instr} {s t : State} (hpc : s.pc.toNat ≤ 0xFFE) (h : StateInv s)
    (hnext : execWith r i s = .next t) : StateInv t := by
  obtain ⟨x, kk, -, hrnd⟩ | hexec := execWith_cases r i s
  · cases hrnd.symm.trans hnext
    exact stateInv_of_same_pieces (stateInv_completed (.rnd x kk) hpc h) rfl rfl rfl rfl
  · exact stateInv_exec hpc h (hexec ▸ hnext)

/-- A cycle keeps the invariant when its step 4 does wherever a fetch answers. -/
theorem stateInv_runCycle {run : Instr → State → Host.Outcome State Fault Refusal}
    (hrun : ∀ {i s t}, s.pc.toNat ≤ 0xFFE → StateInv s → run i s = .next t → StateInv t) {s t : State}
    (h : StateInv s) (hnext : runCycle run s = .next t) : StateInv t := by
  rcases runCycle_next hnext with ⟨-, rfl⟩ | ⟨-, -, rfl⟩ | ⟨-, w, u, hfetch, hu, rfl⟩
  · exact h
  · exact stateInv_takeFault h _
  · exact stateInv_endCycle (hrun (State.fetch_some.1 hfetch).1 h hu)

/-- Settles O44: the cycle's three ends each keep the invariant, an operation because its PC passed the fetch. -/
theorem stepKeepsTheInvariant : Obligations.StepKeepsTheInvariant :=
  fun _ _ h hnext => stateInv_runCycle stateInv_exec h hnext

/-! ### The host's transactions -/

/-- LoadROM only stores bytes, and a rejected image not even those. -/
theorem stateInv_loadRom (bytes : List Byte) {s : State} (h : StateInv s) : StateInv (loadRom bytes s).1 := by
  unfold loadRom
  split
  · obtain ⟨hmem, hrest⟩ := h
    exact ⟨Memory.writeBytes_wf bytes _ hmem, hrest⟩
  · exact h

/-- Settles O45: Reset meets the invariant from any state, LoadROM and Cycle keep it, and the other transactions write
none of its pieces. -/
theorem hostTransactionsKeepTheInvariant : Obligations.HostTransactionsKeepTheInvariant := by
  intro op s t a h hnext
  cases op with
  | reset =>
    cases hnext
    exact stateInv_of_same_pieces resetSatisfiesTheInvariant rfl rfl rfl rfl
  | loadRom bytes =>
    cases hnext
    exact stateInv_loadRom bytes h
  | cycle r => exact stateInv_runCycle stateInv_execWith h (hostOp_cycle_next hnext).1
  | setKeys | readVideo | readSound | readFault =>
    cases hnext
    exact h

end Sys2Proof.Machine
end

section
/-! The sprite renderer against an independent account of which pixels it covers (42_display.md rules R141 to R146). -/

namespace Sys2Proof.Machine

/-! ### What a drawing does: toggle a set of pixels, each once -/

/-- From `d` to `d'` exactly the pixels of `cover` were toggled, and the collision flag tells besides whether one of
them was on. -/
def Toggles (cover : Nat → Nat → Bool) (d d' : Screen × Bool) : Prop :=
  (∀ cx cy, cx < 64 → cy < 32 → pixel d'.1 cx cy = (pixel d.1 cx cy ^^ cover cx cy)) ∧
  (d'.2 = true ↔ d.2 = true ∨ ∃ cx cy, cx < 64 ∧ cy < 32 ∧ pixel d.1 cx cy = true ∧ cover cx cy = true)

theorem Toggles.refl (d : Screen × Bool) : Toggles (fun _ _ => false) d d := by
  simp [Toggles]

theorem Toggles.congr {cover cover' : Nat → Nat → Bool} {d d' : Screen × Bool} (h : Toggles cover d d')
    (heq : ∀ cx cy, cx < 64 → cy < 32 → cover cx cy = cover' cx cy) : Toggles cover' d d' := by
  obtain ⟨hpix, hflag⟩ := h
  refine ⟨fun cx cy hx hy => by rw [hpix cx cy hx hy, heq cx cy hx hy], hflag.trans (or_congr_right ?_)⟩
  constructor
  · rintro ⟨cx, cy, hx, hy, hon, hc⟩
    exact ⟨cx, cy, hx, hy, hon, heq cx cy hx hy ▸ hc⟩
  · rintro ⟨cx, cy, hx, hy, hon, hc⟩
    exact ⟨cx, cy, hx, hy, hon, (heq cx cy hx hy).trans hc⟩

/-- Two drawings that share no pixel are one: the second finds the pixels it toggles as they were before the first. -/
theorem Toggles.trans {cover cover' : Nat → Nat → Bool} {d d' d'' : Screen × Bool} (h : Toggles cover d d')
    (h' : Toggles cover' d' d'') (hdisjoint : ∀ cx cy, cover cx cy = true → cover' cx cy = false) :
    Toggles (fun cx cy => cover cx cy || cover' cx cy) d d'' := by
  obtain ⟨hpix, hflag⟩ := h
  obtain ⟨hpix', hflag'⟩ := h'
  have hsame {cx cy : Nat} (hx : cx < 64) (hy : cy < 32) (hc : cover' cx cy = true) :
      pixel d'.1 cx cy = pixel d.1 cx cy := by
    have hno : cover cx cy = false := by
      by_contra hcov
      simp [hdisjoint cx cy (by simpa using hcov)] at hc
    rw [hpix cx cy hx hy, hno, Bool.xor_false]
  refine ⟨fun cx cy hx hy => ?_, ?_⟩
  · rw [hpix' cx cy hx hy, hpix cx cy hx hy]
    cases hc : cover cx cy with
    | false => simp [hc]
    | true => simp [hc, hdisjoint cx cy hc]
  · rw [hflag', hflag, or_assoc]
    refine or_congr_right ⟨?_, ?_⟩
    · rintro (⟨cx, cy, hx, hy, hon, hc⟩ | ⟨cx, cy, hx, hy, hon, hc⟩)
      · exact ⟨cx, cy, hx, hy, hon, by simp [hc]⟩
      · exact ⟨cx, cy, hx, hy, hsame hx hy hc ▸ hon, by simp [hc]⟩
    · rintro ⟨cx, cy, hx, hy, hon, hc⟩
      rcases Bool.or_eq_true_iff.1 hc with hc | hc
      · exact .inl ⟨cx, cy, hx, hy, hon, hc⟩
      · exact .inr ⟨cx, cy, hx, hy, (hsame hx hy hc).trans hon, hc⟩

/-! ### The renderer, from one bit to the whole sprite -/

/-- A set bit toggles its one pixel, or nothing outside the grid (R144, R145). -/
theorem toggles_plot (d : Screen × Bool) (px py : Nat) :
    Toggles (fun cx cy => decide (cx = px ∧ cy = py)) d (plot d px py) := by
  unfold plot
  split
  · next h =>
    refine ⟨fun cx cy _ _ => pixel_togglePixel d.1 px py cx cy (by omega) (by omega), ?_⟩
    rw [Bool.or_eq_true]
    refine or_congr_right ⟨fun hon => ⟨px, py, by omega, by omega, hon, by simp⟩, ?_⟩
    rintro ⟨cx, cy, -, -, hon, hc⟩
    obtain ⟨rfl, rfl⟩ := of_decide_eq_true hc
    exact hon
  · next h =>
    exact (Toggles.refl d).congr fun cx cy hx hy => (decide_eq_false (by omega)).symm

/-- The pixels of the first `c` columns of a sprite row: bit `7 - k` of the byte falls on column `xpos + k` (R143). -/
def rowCovers (b : Byte) (xpos py c cx cy : Nat) : Bool :=
  decide (cy = py ∧ xpos ≤ cx ∧ cx < xpos + c) && b.getLsbD (7 - (cx - xpos))

theorem rowCovers_succ (b : Byte) (xpos py c cx cy : Nat) :
    rowCovers b xpos py (c + 1) cx cy =
      (rowCovers b xpos py c cx cy || (b.getLsbD (7 - c) && decide (cx = xpos + c ∧ cy = py))) := by
  unfold rowCovers
  by_cases hlast : cx = xpos + c ∧ cy = py
  · obtain ⟨rfl, rfl⟩ := hlast
    simp
  · have hiff : (cy = py ∧ xpos ≤ cx ∧ cx < xpos + (c + 1)) ↔ (cy = py ∧ xpos ≤ cx ∧ cx < xpos + c) := by omega
    simp [hlast, hiff]

theorem toggles_drawRow (b : Byte) (xpos py : Nat) (d : Screen × Bool) (c : Nat) :
    Toggles (rowCovers b xpos py c) d (drawRow b xpos py c d) := by
  induction c with
  | zero => exact (Toggles.refl d).congr fun cx cy _ _ => by simp [rowCovers]
  | succ c ih =>
    unfold drawRow
    split
    · next hbit =>
      refine (ih.trans (toggles_plot _ (xpos + c) py) fun cx cy hc => ?_).congr fun cx cy _ _ => ?_
      · have := of_decide_eq_true (Bool.and_eq_true_iff.1 hc).1
        exact decide_eq_false (by omega)
      · rw [rowCovers_succ, hbit, Bool.true_and]
    · next hbit =>
      exact ih.congr fun cx cy _ _ => by simp [rowCovers_succ, hbit]

theorem spriteCovers_succ (m : Memory) (base n xpos ypos cx cy : Nat) :
    spriteCovers m base (n + 1) xpos ypos cx cy =
      (spriteCovers m base n xpos ypos cx cy || rowCovers (m.read (base + n)) xpos (ypos + n) 8 cx cy) := by
  unfold spriteCovers rowCovers
  by_cases hlast : cy = ypos + n
  · subst hlast
    simp
  · have hiff : (xpos ≤ cx ∧ cx < xpos + 8 ∧ ypos ≤ cy ∧ cy < ypos + (n + 1)) ↔
        (xpos ≤ cx ∧ cx < xpos + 8 ∧ ypos ≤ cy ∧ cy < ypos + n) := by omega
    simp [hlast, hiff]

theorem toggles_drawRows (m : Memory) (base xpos ypos : Nat) (d : Screen × Bool) (n : Nat) :
    Toggles (spriteCovers m base n xpos ypos) d (drawRows m base xpos ypos n d) := by
  induction n with
  | zero => exact (Toggles.refl d).congr fun cx cy _ _ => by simp [spriteCovers]
  | succ n ih =>
    refine (ih.trans (toggles_drawRow _ xpos (ypos + n) _ 8) fun cx cy hc => ?_).congr fun cx cy _ _ => ?_
    · have := of_decide_eq_true (Bool.and_eq_true_iff.1 hc).1
      simp only [rowCovers, Bool.and_eq_false_iff]
      exact .inl (decide_eq_false (by omega))
    · rw [spriteCovers_succ]

/-- The pixels that a Dxyn covers in a state (R141, R144): the start wraps. -/
def drawCover (x y : RegIdx) (n : BitVec 4) (s : State) : Nat → Nat → Bool :=
  spriteCovers s.mem s.i.toNat n.toNat ((s.getV x).toNat % 64) ((s.getV y).toNat % 32)

theorem toggles_drawSprite (x y : RegIdx) (n : BitVec 4) (s : State) :
    Toggles (drawCover x y n s) (s.vid, false)
      (drawSprite s.mem s.i.toNat n.toNat (s.getV x) (s.getV y) s.vid) :=
  toggles_drawRows s.mem s.i.toNat _ _ (s.vid, false) n.toNat

/-! ### One draw -/

/-- The effect of a Dxyn that completes, in terms of the pixels it covers. -/
theorem toggles_completed_drw (x y : RegIdx) (n : BitVec 4) (s : State) :
    (∀ cx cy, cx < 64 → cy < 32 →
      pixel (completed (.drw x y n) s).vid cx cy = (pixel s.vid cx cy ^^ drawCover x y n s cx cy)) ∧
    ∃ f : Bool, (completed (.drw x y n) s).getV 15 = (if f then 1 else 0) ∧
      (f = true ↔ ∃ cx cy, cx < 64 ∧ cy < 32 ∧ pixel s.vid cx cy = true ∧ drawCover x y n s cx cy = true) := by
  obtain ⟨hpix, hflag⟩ := toggles_drawSprite x y n s
  exact ⟨hpix, _, State.getV_setFlag_vf .., by simpa using hflag⟩

/-- The range check of Dxyn, as R141 states it. -/
theorem faultOf_drw_eq_none_iff {x y : RegIdx} {n : BitVec 4} {s : State} :
    faultOf (.drw x y n) s = none ↔ n = 0 ∨ s.i.toNat + n.toNat - 1 ≤ 0xFFF := by
  have hcond : faultOf (.drw x y n) s = none ↔ ¬ (0 < n.toNat ∧ s.i.toNat + n.toNat - 1 > 0xFFF) :=
    ⟨not_of_faultRow_eq_none, fun h => if_neg h⟩
  rw [hcond]
  bv_omega

/-- Settles O23: the renderer toggles the covered pixels, and its flag is the collision. -/
theorem drawTogglesCoveredPixels : Obligations.DrawTogglesCoveredPixels := by
  intro x y n s hrange
  have hnone := faultOf_drw_eq_none_iff (x := x) (y := y).2 hrange
  obtain ⟨hpix, f, hvf, hflag⟩ := toggles_completed_drw x y n s
  refine ⟨_, exec_of_faultOf_none hnone, rfl, hpix, ?_,
    fun _ => completed_getV (i := .drw x y n), by simp [keepsAllBut_iff, completed]⟩
  cases f with
  | true => exact .inl ⟨hvf, hflag.1 rfl⟩
  | false =>
    refine .inr ⟨hvf, fun cx cy hx hy hon => ?_⟩
    refine Bool.eq_false_iff.2 fun hc => ?_
    exact Bool.false_ne_true (hflag.2 ⟨cx, cy, hx, hy, hon, hc⟩)

/-! ### Two draws (R146) -/

/-- A sprite covers what its own bytes say. -/
theorem spriteCovers_congr {m m' : Memory} {base n : Nat} (h : ∀ r, r < n → m'.read (base + r) = m.read (base + r))
    (xpos ypos cx cy : Nat) : spriteCovers m' base n xpos ypos cx cy = spriteCovers m base n xpos ypos cx cy := by
  unfold spriteCovers
  by_cases hin : xpos ≤ cx ∧ cx < xpos + 8 ∧ ypos ≤ cy ∧ cy < ypos + n
  · rw [h (cy - ypos) (by omega)]
  · rw [decide_eq_false hin, Bool.false_and, Bool.false_and]

/-- A display is its pixels. -/
theorem screen_ext {p q : Screen} (h : ∀ cx cy, cx < 64 → cy < 32 → pixel p cx cy = pixel q cx cy) : p = q := by
  refine Vector.ext fun cy hy => BitVec.eq_of_getLsbD_eq fun cx hx => ?_
  simpa only [pixel, dif_pos hy] using h cx cy hx hy

/-- Settles O24: the second draw covers the same pixels, so it toggles them back, and those it finds on are those the
first turned on. -/
theorem drawingTwiceRestoresTheDisplay : Obligations.DrawingTwiceRestoresTheDisplay := by
  intro x y x' y' n s t u hnone hnext hvid hi hmem hx' hy'
  cases (exec_of_faultOf_none hnone).symm.trans hnext
  have hnone' : faultOf (.drw x' y' n) u = none := by
    rw [faultOf_drw_eq_none_iff, hi]
    exact faultOf_drw_eq_none_iff.1 hnone
  have hcover (cx cy : Nat) : drawCover x' y' n u cx cy = drawCover x y n s cx cy := by
    unfold drawCover
    rw [hi, hx', hy', spriteCovers_congr hmem]
  obtain ⟨hpix, -⟩ := toggles_completed_drw x y n s
  obtain ⟨hpix', f, hvf, hflag⟩ := toggles_completed_drw x' y' n u
  simp only [hcover, hvid] at hpix' hflag
  refine ⟨_, exec_of_faultOf_none hnone', screen_ext fun cx cy hx hy => ?_, ?_⟩
  · rw [hpix' cx cy hx hy, hpix cx cy hx hy, Bool.xor_assoc, Bool.xor_self, Bool.xor_false]
  · have hone : (completed (.drw x' y' n) u).getV 15 = 1 ↔ f = true := by rw [hvf]; cases f <;> decide
    rw [hone, hflag]
    have hlit {cx cy : Nat} (hx : cx < 64) (hy : cy < 32) :
        (pixel (completed (.drw x y n) s).vid cx cy = true ∧ drawCover x y n s cx cy = true) ↔
          (pixel s.vid cx cy = false ∧ pixel (completed (.drw x y n) s).vid cx cy = true) := by
      rw [hpix cx cy hx hy]
      cases pixel s.vid cx cy <;> simp
    constructor
    · rintro ⟨cx, cy, hx, hy, h⟩
      exact ⟨cx, cy, hx, hy, (hlit hx hy).1 h⟩
    · rintro ⟨cx, cy, hx, hy, h⟩
      exact ⟨cx, cy, hx, hy, (hlit hx hy).2 h⟩

end Sys2Proof.Machine
end

section
/-! The index, BCD and register-block operations (43_memory_index.md), the fetch of stored bytes
(20_memory.md rule R53), and the one canonical form of a memory (10_state.md rule R19). -/

namespace Sys2Proof.Machine

/-! ### I -/

/-- The glyph address of any byte fits in I: no reduction (R152). -/
theorem glyphAddr_toNat (vx : Byte) : (glyphAddr vx).toNat = 0x050 + 5 * vx.toNat := by
  rw [glyphAddr, BitVec.toNat_ofNat, Config.fontBase]
  exact Nat.mod_eq_of_lt (by omega)

/-- Settles O26: each operation is one write of I with PC advanced. -/
theorem indexArithmetic : Obligations.IndexArithmetic :=
  ⟨fun x s => ⟨_, rfl, rfl, BitVec.toNat_ofNat .., keepsAllBut_advance_setI s _⟩,
    fun x s => ⟨_, rfl, rfl, glyphAddr_toNat (s.getV x), keepsAllBut_advance_setI s _⟩,
    encodedAs_fifteen 0x1E rfl rfl fun w h => by simp [decodeF, h],
    encodedAs_fifteen 0x29 rfl rfl fun w h => by simp [decodeF, h]⟩

/-! ### Stores -/

theorem keepsAllBut_advance_setMem (s : State) (m : Memory) : KeepsAllBut [.memory] s (s.advance.setMem m) := by
  simp [keepsAllBut_iff]

/-- A store at I writes no byte outside its own. -/
theorem memKeptOutside_store {s : State} (hcanon : MemCanonical s) {bs : List Byte} {n : Nat} (hlen : bs.length = n) :
    MemKeptOutside s.i.toNat n s (s.advance.setMem (s.mem.writeBytes s.i.toNat bs)) :=
  fun a ha => Memory.read_writeBytes_outside bs s.i.toNat a hcanon (hlen ▸ ha)

/-- Settles O27: the three bytes read back as the digits, which each fit a byte. -/
theorem bcdStoresThreeDigits : Obligations.BcdStoresThreeDigits := by
  refine ⟨fun x s hcanon hrange => ?_, encodedAs_fifteen 0x33 rfl rfl fun w h => by simp [decodeF, h]⟩
  have hread (k : Nat) (hk : k < (bcdBytes (s.getV x)).length) :
      (s.mem.writeBytes s.i.toNat (bcdBytes (s.getV x))).read (s.i.toNat + k) = (bcdBytes (s.getV x))[k] :=
    Memory.read_writeBytes_inside _ _ k hk hcanon (by
      have hlen : (bcdBytes (s.getV x)).length = 3 := rfl
      unfold Config.memSize
      omega)
  have hbyte := (s.getV x).isLt
  refine ⟨_, exec_ldB_ok hrange, rfl, ?_, ?_, ?_, memKeptOutside_store hcanon rfl, keepsAllBut_advance_setMem s _⟩
  · exact (congrArg BitVec.toNat (hread 0 (by decide : 0 < 3))).trans (Nat.mod_eq_of_lt (by omega))
  · exact (congrArg BitVec.toNat (hread 1 (by decide : 1 < 3))).trans (Nat.mod_eq_of_lt (by omega))
  · exact (congrArg BitVec.toNat (hread 2 (by decide : 2 < 3))).trans (Nat.mod_eq_of_lt (by omega))

/-- What Fx55 leaves at I + k (R154). -/
theorem read_storeRegs {x k : RegIdx} {s t : State} (hcanon : MemCanonical s) (hrange : s.i.toNat + x.val ≤ 0xFFF)
    (hnext : exec (.storeRegs x) s = .next t) (hk : k ≤ x) : t.mem.read (s.i.toNat + k.val) = s.getV k := by
  cases (exec_storeRegs_ok hrange).symm.trans hnext
  have hk' : k.val ≤ x.val := hk
  have hlt : k.val < (blockBytes s x).length := by rw [blockBytes_length]; omega
  rw [← getElem_blockBytes s x k hlt]
  exact Memory.read_writeBytes_inside _ _ k.val hlt hcanon (by unfold Config.memSize; omega)

/-- Settles O28: the bytes stored are the registers up to Vx. -/
theorem blockStoreWritesRegisters : Obligations.BlockStoreWritesRegisters :=
  ⟨fun x s hcanon hrange => ⟨_, exec_storeRegs_ok hrange, rfl,
      fun _ hk => read_storeRegs hcanon hrange (exec_storeRegs_ok hrange) hk,
      memKeptOutside_store hcanon (blockBytes_length s x), keepsAllBut_advance_setMem s _⟩,
    encodedAs_fifteen 0x55 rfl rfl fun w h => by simp [decodeF, h]⟩

/-! ### Loads -/

/-- What Fx65 leaves in a register (R155). -/
theorem getV_completed_loadRegs (s : State) (x k : RegIdx) : (completed (.loadRegs x) s).getV k =
    if k ≤ x then s.mem.read (s.i.toNat + k.val) else s.getV k :=
  getV_setAllV_loadBlock s.advance s.mem s.i.toNat x k

/-- Settles O29: each register up to Vx is read from its own byte, and the others stay. -/
theorem blockLoadReadsRegisters : Obligations.BlockLoadReadsRegisters := by
  refine ⟨fun x s hrange =>
      ⟨completed (.loadRegs x) s, exec_loadRegs_ok hrange, rfl, fun k hk => ?_, fun k hk => ?_, ?_⟩,
    encodedAs_fifteen 0x65 rfl rfl fun w h => by simp [decodeF, h]⟩
  · rw [getV_completed_loadRegs, if_pos hk]
  · rw [getV_completed_loadRegs, if_neg (not_le_of_gt hk)]
  · simp [keepsAllBut_iff, completed]

/-- Settles O30: the load reads the bytes that the store left, one register each. -/
theorem storeThenLoadRestoresRegisters : Obligations.StoreThenLoadRestoresRegisters := by
  intro x s t u hcanon hrange hstore hbytes hi
  refine ⟨completed (.loadRegs x) u, exec_loadRegs_ok (hi ▸ hrange), fun k hk => ?_⟩
  rw [getV_completed_loadRegs, if_pos hk, hi, hbytes k hk, read_storeRegs hcanon hrange hstore hk]

/-- Settles O31: the two bytes at PC are the two registers stored there, the lower address first. -/
theorem fetchSeesStoredBytes : Obligations.FetchSeesStoredBytes := by
  intro x k l s t u hcanon hrange hstore hkl hl hpc hhigh hlow
  have hlx : l.val ≤ x.val := hl
  have hk : k ≤ x := Fin.le_def.2 (by omega)
  have hhi : u.mem.read u.pc.toNat = s.getV k := by
    rw [hpc, hhigh, read_storeRegs hcanon hrange hstore hk]
  have hlo : u.mem.read (u.pc.toNat + 1) = s.getV l := by
    rw [hpc, Nat.add_assoc, ← hkl, hlow, read_storeRegs hcanon hrange hstore hl]
  exact ⟨_, State.fetch_some.2 ⟨by omega, rfl⟩, by rw [wordOfBytes_toNat, hhi, hlo]⟩

/-! ### The canonical form -/

/-- The first address a canonical memory lists reads as its own byte, which is not the unlisted one. -/
theorem Memory.read_head_ne_unlisted {lo k : Nat} {b : Byte} {m : Memory} (h : Memory.wfFrom lo ((k, b) :: m) = true) :
    Memory.read ((k, b) :: m) k ≠ Memory.unlisted k := by
  obtain ⟨-, -, hne, -⟩ := (Memory.wfFrom_cons ..).1 h
  rwa [Memory.read, if_pos rfl]

/-- Where a canonical memory reads other than the unlisted value, no memory with the same reads can start later. -/
theorem Memory.head_le_of_same_reads {lo lo' k k' : Nat} {b b' : Byte} {m m' : Memory}
    (h : Memory.wfFrom lo ((k, b) :: m) = true) (h' : Memory.wfFrom lo' ((k', b') :: m') = true)
    (heq : Memory.read ((k, b) :: m) k = Memory.read ((k', b') :: m') k) : k' ≤ k := by
  by_contra hlt
  obtain ⟨-, hmem, hne, hrest⟩ := (Memory.wfFrom_cons ..).1 h'
  have hfrom : Memory.wfFrom k' ((k', b') :: m') = true := (Memory.wfFrom_cons ..).2 ⟨le_rfl, hmem, hne, hrest⟩
  exact Memory.read_head_ne_unlisted h (heq.trans (Memory.read_below hfrom (by omega)))

/-- By induction on the first list: both have the same head, since neither can start later than the other; and below
their heads the tails read as unlisted. -/
theorem Memory.eq_of_same_reads : ∀ {lo : Nat} {m m' : Memory}, Memory.wfFrom lo m = true → Memory.wfFrom lo m' = true →
    (∀ a, a < Config.memSize → m.read a = m'.read a) → m = m'
  | _, [], [], _, _, _ => rfl
  | _, [], (k, b) :: m', _, h', heq => by
    have hk : k < Config.memSize := ((Memory.wfFrom_cons ..).1 h').2.1
    exact absurd (heq k hk).symm (Memory.read_head_ne_unlisted h')
  | _, (k, b) :: m, [], h, _, heq => by
    have hk : k < Config.memSize := ((Memory.wfFrom_cons ..).1 h).2.1
    exact absurd (heq k hk) (Memory.read_head_ne_unlisted h)
  | lo, (k, b) :: m, (k', b') :: m', h, h', heq => by
    obtain ⟨-, hk, -, hrest⟩ := (Memory.wfFrom_cons ..).1 h
    obtain ⟨-, hk', -, hrest'⟩ := (Memory.wfFrom_cons ..).1 h'
    obtain rfl : k = k' := le_antisymm (Memory.head_le_of_same_reads h' h (heq k' hk').symm)
      (Memory.head_le_of_same_reads h h' (heq k hk))
    obtain rfl : b = b' := by simpa [Memory.read] using heq k hk
    have htail (a : Nat) (ha : a < Config.memSize) : Memory.read m a = Memory.read m' a := by
      by_cases hka : k = a
      · subst hka
        rw [Memory.read_below hrest (Nat.lt_succ_self k), Memory.read_below hrest' (Nat.lt_succ_self k)]
      · simpa [Memory.read, hka] using heq a ha
    rw [Memory.eq_of_same_reads hrest hrest' htail]

/-- Settles O49: the canonical form is the form from address 0 up. -/
theorem canonicalMemoriesAreEqual : Obligations.CanonicalMemoriesAreEqual :=
  fun _ _ h h' heq => Memory.eq_of_same_reads h h' heq

end Sys2Proof.Machine
end

section
/-! The call and the return (41_control_flow.md section 2). -/

namespace Sys2Proof.Machine

/-- Settles O17: with a free entry the call is one write of PC, of the entry and of SP. -/
theorem callPushesOrOverflows : Obligations.CallPushesOrOverflows := by
  refine ⟨fun nnn s k hsp => ?_, fun nnn s hsp => exec_call_fault (congrArg Fin.val hsp),
    encodedAs_primary 0x2 rfl fun w h => by simp [decodeWord, h]⟩
  have hlt : s.sp.val < 16 := by omega
  refine ⟨_, exec_call_ok hlt, zext16_toNat nnn, congrArg (· + 1) hsp, ?_, fun j hj => ?_, ?_⟩
  · simp [hsp]
  · have hne : s.sp.val ≠ j.val := fun e => hj (Fin.ext (e.symm.trans hsp))
    exact Vector.getElem_set_ne hlt _ hne
  · simp [keepsAllBut_iff, State.getV]

/-- Settles O18: with an entry in use the return is one write of PC and of SP. -/
theorem returnPopsOrUnderflows : Obligations.ReturnPopsOrUnderflows := by
  refine ⟨fun s k hsp => ?_, fun s hsp => exec_ret_fault (congrArg Fin.val hsp), rfl⟩
  have hidx : s.sp.val - 1 = k.val := by omega
  refine ⟨_, exec_ret_ok (by omega), ?_, hidx, rfl, ?_⟩
  · simp [hidx]
  · simp [keepsAllBut_iff, State.getV]

/-- Settles O19: the call's entry and SP are the ones the return reads. -/
theorem returnGoesToTheWordAfterTheCall : Obligations.ReturnGoesToTheWordAfterTheCall := by
  intro nnn s t u k hsp hcall hentry husp
  obtain ⟨t', hcall', -, hsp', hstack, -, -⟩ := callPushesOrOverflows.1 nnn s k hsp
  cases hcall'.symm.trans hcall
  obtain ⟨w, hret, hpc, hwsp, -, -⟩ := returnPopsOrUnderflows.1 u k (husp ▸ hsp')
  exact ⟨w, hret, hpc.trans (hentry.trans hstack), Fin.ext (hwsp.trans hsp.symm)⟩

end Sys2Proof.Machine
end

section
/-! The random byte and the keys (40_arithmetic_register.md section 4, 44_timers_keys.md section 3). -/

namespace Sys2Proof

open Sys2Proof.Machine

/-- A row of primary 0xE, which the low byte decides (30_encoding.md rule R69). -/
theorem encodedAs_fourteen {value : Word} {mk : Word → Instr} (sel : Byte) (hop : fieldOp value = 0xE)
    (hsel : fieldKk value = sel) (hdecode : ∀ w, fieldKk w = sel → decodeE w = mk w) :
    EncodedAs 0xF0FF value mk := by
  intro w h
  have hw : fieldOp w = 0xE := (extractLsb'_eq_of_mask (by decide) h).trans hop
  have hkk : fieldKk w = sel := (extractLsb'_eq_of_mask (by decide) h).trans hsel
  rw [decodeWord_of_fieldOp_fourteen hw, hdecode w hkk]

end Sys2Proof

namespace Sys2Proof.Machine

theorem frame_advance_drawn_setV (s : State) (x : RegIdx) (b : Byte) :
    RegsButKept [x] s (s.advance.drawn.setV x b) ∧ KeepsAllBut [.regs, .draws] s (s.advance.drawn.setV x b) :=
  ⟨fun r hr => State.getV_setV_ne s.advance.drawn x r b (List.ne_of_not_mem_cons hr), by simp [keepsAllBut_iff]⟩

theorem and_and_not_self (r kk : Byte) : r &&& kk &&& ~~~kk = 0 := by
  rw [BitVec.and_assoc, BitVec.and_not_self]
  exact BitVec.and_zero

/-- Settles O12: the operation is one write of Vx and one count of the draw, whatever the byte. -/
theorem randomByteIsMasked : Obligations.RandomByteIsMasked := by
  refine ⟨fun r x kk s => ⟨_, rfl, rfl, State.getV_setV_same _ x _, frame_advance_drawn_setV s x _⟩,
    fun x kk s => ⟨_, rfl, rfl, State.getV_setV_same _ x _, ?_, rfl, frame_advance_drawn_setV s x _⟩,
    encodedAs_primary 0xC rfl fun w h => by simp [decodeWord, h]⟩
  rw [State.getV_setV_same, and_and_not_self]

/-- The skip on a key not pressed, the complement of the skip on one pressed. -/
theorem pc_advance_skipIf_not (s : State) (c : Bool) :
    (s.advance.skipIf (! c)).pc = if c = true then s.pc + 2 else s.pc + 4 := by
  rw [pc_advance_skipIf]
  cases c <;> rfl

/-- Settles O34: both skips are on the key that the content of Vx names, and above 15 both fault. -/
theorem keySkips : Obligations.KeySkips :=
  ⟨fun _ k s h => ⟨_, exec_skp_ok h, pc_advance_skipIf s (s.pressed k), keepsAllBut_advance_skipIf s _⟩,
    fun _ k s h => ⟨_, exec_sknp_ok h, pc_advance_skipIf_not s (s.pressed k), keepsAllBut_advance_skipIf s _⟩,
    fun _ _ h => ⟨exec_skp_fault h, exec_sknp_fault h⟩,
    encodedAs_fourteen 0x9E rfl rfl fun w h => by simp [decodeE, h],
    encodedAs_fourteen 0xA1 rfl rfl fun w h => by simp [decodeE, h]⟩

/-- The scan finds the key that is pressed with none below it. -/
theorem lowestKey_eq_some {s : State} {k : RegIdx} (hk : s.pressed k = true)
    (hbelow : ∀ j, j < k → s.pressed j = false) : s.lowestKey = some k := by
  cases h : s.lowestKey with
  | none => exact absurd (State.lowestKey_none.1 h k) (by simp [hk])
  | some l =>
    obtain ⟨hl, hbelow'⟩ := State.lowestKey_some h
    have hle : k ≤ l := le_of_not_gt fun hlt => by simp [hbelow l hlt] at hl
    have hge : l ≤ k := le_of_not_gt fun hlt => by simp [hbelow' k hlt] at hk
    rw [le_antisymm hge hle]

/-- Settles O35: with a key found the operation is one write of Vx with PC advanced; with none it leaves the state. -/
theorem keyWait : Obligations.KeyWait := by
  refine ⟨fun x k s hk hbelow => ?_, fun x s hkey => ?_,
    encodedAs_fifteen 0x0A rfl rfl fun w h => by simp [decodeF, h]⟩
  · refine ⟨_, exec_ldVxK_key (lowestKey_eq_some hk hbelow), rfl, ?_, frame_advance_setV s x _⟩
    rw [State.getV_setV_same, BitVec.toNat_ofNat]
    exact Nat.mod_eq_of_lt (by omega)
  · have hnone : s.lowestKey = none := State.lowestKey_none.2 fun k => by simp [State.pressed, hkey]
    exact ⟨s, exec_ldVxK_wait hnone, rfl, by simp [keepsAllBut_iff]⟩

end Sys2Proof.Machine
end

section
/-! Reset, and the image that LoadROM rejects (10_state.md sections 5 and 6). -/

namespace Sys2Proof.Machine

theorem getV_reset (r : RegIdx) : State.reset.getV r = 0 := by
  simp [State.getV, State.reset]

/-- Settles O50: the registers, the stack and the display are zero throughout, and memory lists nothing, so it reads as
the font and zeros. -/
theorem resetValues : Obligations.ResetValues := by
  refine ⟨getV_reset, rfl, rfl, fun k => ?_, rfl, rfl, rfl, rfl, fun k _ => vidElem_clearScreen k, rfl, fun a _ => ?_⟩
  · simp [State.reset]
  · have hcond : (Config.fontBase ≤ a ∧ a < Config.fontBase + Config.fontBytes) ↔ (0x050 ≤ a ∧ a ≤ 0x09F) := by
      unfold Config.fontBase Config.fontBytes
      omega
    show Memory.unlisted a = _
    simp only [Memory.unlisted, hcond]
    rfl

/-- Settles O51: Reset takes every piece but the count of draws from the reset state. -/
theorem hostResetRestoresEverything : Obligations.HostResetRestoresEverything :=
  fun s => ⟨hostReset s, rfl, rfl, by simp [keepsAllBut_iff, hostReset, State.getV]⟩

/-- Settles O53: the length check rejects the image before anything is written. -/
theorem loadRomRejectsLongImages : Obligations.LoadRomRejectsLongImages := by
  intro bytes s hlen
  have hreject : loadRom bytes s = (s, false) := if_neg (Nat.not_le_of_gt hlen)
  simp only [hostOp, hreject]

end Sys2Proof.Machine
end
